-- ==== Sys2Proof/Word.lean ====
section
/-! DEFINITION. The word types of the machine and its sizes (00_scope.md R8 to R10, table P1). -/

namespace Sys2Proof

/-- A register, a memory cell, a timer, an immediate `kk`: 8 bits, unsigned (R8, R10). -/
abbrev Byte := BitVec 8

/-- `I`, `PC`, a stack entry, an instruction word: 16 bits, unsigned (R8, R10). -/
abbrev Word := BitVec 16

/-- A 4-bit field: the row count `n`, an ignored nibble (R72). -/
abbrev Nibble := BitVec 4

/-- The address field `nnn`, 12 bits (R72). -/
abbrev Addr12 := BitVec 12

/-- A general register's number, 0 to 15 (R21, R72). -/
abbrev RegIx := Fin 16

/-- A key code, one of 16 symbols, carried as a 4-bit number (R13). -/
abbrev KeyCode := BitVec 4

/-- Register 15, `VF`, the flag register (R22). -/
def vf : RegIx := 15

/-- `MEM_SIZE`: 4096 bytes, addresses 0 to 4095 (R8, R27). -/
def memSize : Nat := 4096

end Sys2Proof
end

