-- ==== Sys2Proof/Config.lean ====
section
/-! DEFINITION. The implementation parameters of 00_scope.md table P1 (R8), each with the value the spec
gives it, and the free inputs the host supplies when State lists none. A parameter that chooses
between behaviours is an inductive type; the operations take it as an argument. A machine carries its
parameters in State.config, and every step and meaning reads them there. -/

namespace Sys2Proof

/-- `INVALID_PC_POLICY` (R186, D10): what an unrecognized opcode does to `PC`. -/
inductive InvalidPcPolicy where
  | stay
  | advance2
  deriving DecidableEq, Repr

/-- `SYS_POLICY` (R185, D11): how SYS is executed. -/
inductive SysPolicy where
  | asInvalid
  | ignore
  deriving DecidableEq, Repr

/-- `LOW_NIBBLE_5_9` (R81, D12): whether the low nibble of 5xy_ and 9xy_ takes part in decoding. -/
inductive LowNibblePolicy where
  | ignored
  | mustBeZero
  deriving DecidableEq, Repr

/-- `KEY_INDEX_POLICY` (R176, D18): which key a register value names for SKP and SKNP. -/
inductive KeyIndexPolicy where
  | low4
  | faultAbove15
  deriving DecidableEq, Repr

/-- `VF_DEST_ORDER_ARITH` (R127, D14): which write of ADD Vx,Vy, SUB and SUBN comes last. -/
inductive VfOrderArith where
  | flagLast
  | resultLast
  deriving DecidableEq, Repr

/-- `VF_DEST_ORDER_SHIFT` (R135, D15): the order of the two writes of SHR and SHL. -/
inductive VfOrderShift where
  | sequential
  | flagLast
  | resultLast
  deriving DecidableEq, Repr

/-- `ADDR_WRAP` (R52, D8): what an access to an address of 4096 or more does. -/
inductive AddrWrap where
  /-- The address is reduced modulo 4096. -/
  | modulo
  /-- The cautious model of D8: the access is refused. -/
  | refuseAbove
  deriving DecidableEq, Repr

/-- `FONT_DIGIT_POLICY` (R155, D19): which digit a register value names for LD F. -/
inductive FontDigitPolicy where
  | low4
  /-- The cautious model of R155: a value above 15 is refused. -/
  | refuseAbove15
  deriving DecidableEq, Repr

/-- `TONE_ROUNDING` (R177, D28): how `value * 1000 / 60` becomes a whole number of milliseconds. The spec
names no alternative to `floor`; the other two are the model's choice. DESIGN CHOICE, log 20. -/
inductive ToneRounding where
  | floor
  | nearest
  | up
  deriving DecidableEq, Repr

/-- The parameters of table P1 that are not widths of a type (R8). -/
structure Config where
  /-- `FONT_BASE` (R51, D4). -/
  fontBase : Nat
  /-- `FONT_DATA`, 80 bytes (R64, D5). -/
  fontData : List Byte
  /-- `PROG_BASE` (R51, D3). -/
  progBase : Nat
  /-- `STACK_DEPTH` (R26, D7). -/
  stackDepth : Nat
  addrWrap : AddrWrap
  invalidPc : InvalidPcPolicy
  sys : SysPolicy
  lowNibble59 : LowNibblePolicy
  keyIndex : KeyIndexPolicy
  fontDigit : FontDigitPolicy
  toneRounding : ToneRounding
  vfOrderArith : VfOrderArith
  vfOrderShift : VfOrderShift
  /-- `TIMER_DUE_SHARED` (R111, D2): one `timer_due` input serves both timers. -/
  timerDueShared : Bool
  deriving DecidableEq, Repr

/-- Table F1, glyphs 0 to 7 (R64). -/
def fontLow : List Byte :=
  [0xF0, 0x90, 0x90, 0x90, 0xF0] ++ [0x20, 0x60, 0x20, 0x20, 0x70] ++
  [0xF0, 0x10, 0xF0, 0x80, 0xF0] ++ [0xF0, 0x10, 0xF0, 0x10, 0xF0] ++
  [0x90, 0x90, 0xF0, 0x10, 0x10] ++ [0xF0, 0x80, 0xF0, 0x10, 0xF0] ++
  [0xF0, 0x80, 0xF0, 0x90, 0xF0] ++ [0xF0, 0x10, 0x20, 0x40, 0x40]

/-- Table F1, glyphs 8 to F (R64). -/
def fontHigh : List Byte :=
  [0xF0, 0x90, 0xF0, 0x90, 0xF0] ++ [0xF0, 0x90, 0xF0, 0x10, 0xF0] ++
  [0xF0, 0x90, 0xF0, 0x90, 0x90] ++ [0xE0, 0x90, 0xE0, 0x90, 0xE0] ++
  [0xF0, 0x80, 0x80, 0x80, 0xF0] ++ [0xE0, 0x90, 0x90, 0x90, 0xE0] ++
  [0xF0, 0x80, 0xF0, 0x80, 0xF0] ++ [0xF0, 0x80, 0xF0, 0x80, 0x80]

/-- The value column of table P1 (R8): the default of every parameter, and the configuration of
State.reset. -/
def Config.current : Config where
  fontBase := 0x000
  fontData := fontLow ++ fontHigh
  progBase := 0x200
  stackDepth := 16
  addrWrap := .modulo
  invalidPc := .stay
  sys := .asInvalid
  lowNibble59 := .ignored
  keyIndex := .low4
  fontDigit := .low4
  toneRounding := .floor
  vfOrderArith := .flagLast
  vfOrderShift := .sequential
  timerDueShared := true

/-- What the spec asks of the parameters: the font is 80 bytes long and lies below the program
(R51, D4), and the program starts inside memory (R221). -/
def Config.valid (c : Config) : Bool :=
  c.fontData.length == 80 && c.fontBase + 80 ≤ c.progBase && c.progBase ≤ memSize

/-- Parameter values under which no instruction stops the model: the defaults of the three policies that
have a stopping alternative (R52, R155, R176). -/
def Config.neverStops (c : Config) : Prop :=
  c.addrWrap = .modulo ∧ c.fontDigit = .low4 ∧ c.keyIndex = .low4

/-- The longest program image `Reset` takes, `MEM_SIZE - PROG_BASE` (R221). -/
def Config.romCapacity (c : Config) : Nat := memSize - c.progBase

/-- The byte that cell `a` of `MEM` holds after `Reset` with an empty program image: the font where
the font lies, zero elsewhere (R36 table S2, R220). -/
def Config.resetByte (c : Config) (a : Nat) : Byte :=
  if c.fontBase ≤ a then c.fontData.getD (a - c.fontBase) 0 else 0

/-- The free `timer_due` input (R111): no value is fixed; the argument is the number of the draw. -/
opaque Config.freeTimerDue : Nat → Bool

/-- The free second timer input of the alternative `TIMER_DUE_SHARED = false` (D2). -/
opaque Config.freeStDue : Nat → Bool

/-- The free `keys_held` input (R101). -/
opaque Config.freeKeysHeld : Nat → BitVec 16

/-- The free `rand_byte` input (R110, R181): a draw under no law. -/
opaque Config.freeRandByte : Nat → Byte

end Sys2Proof
end

