-- ==== Sys2Proof/Syntax.lean ====
section
/-! DEFINITION. The 35 operations of 30_encoding.md table E2 and INVALID (R70, R74): the operation
descriptor as a sum type, one constructor per tag and per row of opcode_table.json, in the table's
order, carrying every field the row has. -/

namespace Sys2Proof

/-- The operation descriptor (R85). A field the execution ignores (the low nibble `z` of 5xyz and 9xyz,
R81; the `y` of SHR and SHL, R137) is carried too, so that no bit of a word is lost. -/
inductive Instr where
  | cls
  | ret
  | sys (nnn : Addr12)
  | jp (nnn : Addr12)
  | call (nnn : Addr12)
  | seImm (x : RegIx) (kk : Byte)
  | sneImm (x : RegIx) (kk : Byte)
  | seReg (x y : RegIx) (z : Nibble)
  | ldImm (x : RegIx) (kk : Byte)
  | addImm (x : RegIx) (kk : Byte)
  | ldReg (x y : RegIx)
  | orReg (x y : RegIx)
  | andReg (x y : RegIx)
  | xorReg (x y : RegIx)
  | addReg (x y : RegIx)
  | subReg (x y : RegIx)
  | shr (x y : RegIx)
  | subn (x y : RegIx)
  | shl (x y : RegIx)
  | sneReg (x y : RegIx) (z : Nibble)
  | ldI (nnn : Addr12)
  | jpV0 (nnn : Addr12)
  | rnd (x : RegIx) (kk : Byte)
  | drw (x y : RegIx) (n : Nibble)
  | skp (x : RegIx)
  | sknp (x : RegIx)
  | ldVxDt (x : RegIx)
  | ldVxK (x : RegIx)
  | ldDtVx (x : RegIx)
  | ldStVx (x : RegIx)
  | addI (x : RegIx)
  | ldF (x : RegIx)
  | ldB (x : RegIx)
  | ldMemVx (x : RegIx)
  | ldVxMem (x : RegIx)
  | invalid (w : Word)
  deriving DecidableEq, Repr

end Sys2Proof
end

