-- ==== Sys2Proof/WellFormed.lean ====
section
/-! DEFINITION. Which descriptors some word decodes to (R77, R81, R82). Fields are bounded by their
types; what is left to check is that SYS does not carry the word of CLS or RET, that INVALID carries
a word the decoder does not recognize, and, under `LOW_NIBBLE_5_9 = must_be_zero`, the low nibble. -/

namespace Sys2Proof

/-- The low nibbles of the 8xy_ family that name an operation (R78). -/
def family8LowNibbles : List Nibble := [0x0, 0x1, 0x2, 0x3, 0x4, 0x5, 0x6, 0x7, 0xE]

/-- The low bytes of the Ex__ family that name an operation (R79). -/
def familyELowBytes : List Byte := [0x9E, 0xA1]

/-- The low bytes of the Fx__ family that name an operation (R80). -/
def familyFLowBytes : List Byte := [0x07, 0x0A, 0x15, 0x18, 0x1E, 0x29, 0x33, 0x55, 0x65]

/-- The words that decode to INVALID (R82), and under `must_be_zero` the words of R81 as well. -/
def unrecognized (p : LowNibblePolicy) (w : Word) : Bool :=
  let top := w.extractLsb' 12 4
  let low := w.extractLsb' 0 4
  let kk := w.extractLsb' 0 8
  (top == 0x8#4 && !family8LowNibbles.contains low) ||
  (top == 0xE#4 && !familyELowBytes.contains kk) ||
  (top == 0xF#4 && !familyFLowBytes.contains kk) ||
  (p == .mustBeZero && (top == 0x5#4 || top == 0x9#4) && low != 0#4)

/-- Well-formedness under a given `LOW_NIBBLE_5_9`: the descriptor is the decoder's answer for some
word. -/
def Instr.wfWith (p : LowNibblePolicy) : Instr → Bool
  | .sys nnn => nnn != 0x0E0#12 && nnn != 0x0EE#12
  | .seReg _ _ z => p == .ignored || z == 0#4
  | .sneReg _ _ z => p == .ignored || z == 0#4
  | .invalid w => unrecognized p w
  | .cls | .ret | .jp _ | .call _ | .seImm _ _ | .sneImm _ _ | .ldImm _ _ | .addImm _ _
  | .ldReg _ _ | .orReg _ _ | .andReg _ _ | .xorReg _ _ | .addReg _ _ | .subReg _ _ | .shr _ _
  | .subn _ _ | .shl _ _ | .ldI _ | .jpV0 _ | .rnd _ _ | .drw _ _ _ | .skp _ | .sknp _
  | .ldVxDt _ | .ldVxK _ | .ldDtVx _ | .ldStVx _ | .addI _ | .ldF _ | .ldB _ | .ldMemVx _
  | .ldVxMem _ => true

/-- Well-formedness under the default parameters. -/
def Instr.wf (i : Instr) : Bool := i.wfWith Config.current.lowNibble59

end Sys2Proof
end

