-- ==== Sys2Proof/Decode.lean ====
section
/-! DEFINITION. The decoder (30_encoding.md R74 to R82), total on every 16-bit word; the decoder of a
byte list, which rejects by name a list too short to hold a word; the encoder, from the same table;
and table E2 as rows of match and mask (R88). -/

namespace Sys2Proof

/-! ## Fields of a word (R72) -/

def fieldTop (w : Word) : Nibble := w.extractLsb' 12 4
def fieldX (w : Word) : RegIx := (w.extractLsb' 8 4).toFin
def fieldY (w : Word) : RegIx := (w.extractLsb' 4 4).toFin
def fieldN (w : Word) : Nibble := w.extractLsb' 0 4
def fieldKk (w : Word) : Byte := w.extractLsb' 0 8
def fieldNnn (w : Word) : Addr12 := w.extractLsb' 0 12

/-! ## The dispatch (R75) -/

/-- Top nibble 0 compares the whole word (R77). -/
def decode0 (w : Word) : Instr :=
  if w = 0x00E0#16 then .cls else if w = 0x00EE#16 then .ret else .sys (fieldNnn w)

/-- Top nibbles 5 and 9: one operation each, whose low nibble is looked at only under
`must_be_zero` (R81). -/
def decode59 (p : LowNibblePolicy) (op : RegIx → RegIx → Nibble → Instr) (w : Word) : Instr :=
  match p with
  | .ignored => op (fieldX w) (fieldY w) (fieldN w)
  | .mustBeZero => if fieldN w = 0#4 then op (fieldX w) (fieldY w) (fieldN w) else .invalid w

/-- Top nibble 8, split by the low nibble (R78). -/
def decode8 (w : Word) : Instr :=
  match fieldN w with
  | 0x0#4 => .ldReg (fieldX w) (fieldY w)
  | 0x1#4 => .orReg (fieldX w) (fieldY w)
  | 0x2#4 => .andReg (fieldX w) (fieldY w)
  | 0x3#4 => .xorReg (fieldX w) (fieldY w)
  | 0x4#4 => .addReg (fieldX w) (fieldY w)
  | 0x5#4 => .subReg (fieldX w) (fieldY w)
  | 0x6#4 => .shr (fieldX w) (fieldY w)
  | 0x7#4 => .subn (fieldX w) (fieldY w)
  | 0xE#4 => .shl (fieldX w) (fieldY w)
  | _ => .invalid w

/-- Top nibble E, split by the low byte (R79). -/
def decodeE (w : Word) : Instr :=
  match fieldKk w with
  | 0x9E#8 => .skp (fieldX w)
  | 0xA1#8 => .sknp (fieldX w)
  | _ => .invalid w

/-- Top nibble F, split by the low byte (R80). -/
def decodeF (w : Word) : Instr :=
  match fieldKk w with
  | 0x07#8 => .ldVxDt (fieldX w)
  | 0x0A#8 => .ldVxK (fieldX w)
  | 0x15#8 => .ldDtVx (fieldX w)
  | 0x18#8 => .ldStVx (fieldX w)
  | 0x1E#8 => .addI (fieldX w)
  | 0x29#8 => .ldF (fieldX w)
  | 0x33#8 => .ldB (fieldX w)
  | 0x55#8 => .ldMemVx (fieldX w)
  | 0x65#8 => .ldVxMem (fieldX w)
  | _ => .invalid w

/-- The decoder under a given `LOW_NIBBLE_5_9`: dispatch by the top nibble (R75, R76). -/
def decodeWordWith (p : LowNibblePolicy) (w : Word) : Instr :=
  match fieldTop w with
  | 0x0#4 => decode0 w
  | 0x1#4 => .jp (fieldNnn w)
  | 0x2#4 => .call (fieldNnn w)
  | 0x3#4 => .seImm (fieldX w) (fieldKk w)
  | 0x4#4 => .sneImm (fieldX w) (fieldKk w)
  | 0x5#4 => decode59 p .seReg w
  | 0x6#4 => .ldImm (fieldX w) (fieldKk w)
  | 0x7#4 => .addImm (fieldX w) (fieldKk w)
  | 0x8#4 => decode8 w
  | 0x9#4 => decode59 p .sneReg w
  | 0xA#4 => .ldI (fieldNnn w)
  | 0xB#4 => .jpV0 (fieldNnn w)
  | 0xC#4 => .rnd (fieldX w) (fieldKk w)
  | 0xD#4 => .drw (fieldX w) (fieldY w) (fieldN w)
  | 0xE#4 => decodeE w
  | _ => decodeF w -- the one nibble left, 0xF

/-- `Decode` (R74) under the default `LOW_NIBBLE_5_9`; a machine decodes with its own policy
(State.fetched). -/
def decodeWord (w : Word) : Instr := decodeWordWith Config.current.lowNibble59 w

/-! ## Bytes -/

/-- The word of two consecutive bytes, the first byte high (R53, R71). -/
def wordOfBytes (hi lo : Byte) : Word := hi ++ lo

/-- The bytes of a word in memory order (R53). -/
def bytesOfWord (w : Word) : List Byte := [w.extractLsb' 8 8, w.extractLsb' 0 8]

/-- Why a byte list holds no instruction. -/
inductive DecodeError where
  /-- Fewer than the two bytes every instruction has (R71); `got` bytes were there. -/
  | truncated (got : Nat)
  deriving DecidableEq, Repr

/-- Decode the first instruction of a byte list and give the bytes after it (R71). -/
def decode : List Byte → Except DecodeError (Instr × List Byte)
  | hi :: lo :: rest => .ok (decodeWord (wordOfBytes hi lo), rest)
  | bs => .error (.truncated bs.length)

/-- The instruction the decoder reads from an instruction whose bits are `w`, numbered as
opcode_table.json numbers them: bits 15..0 are the one word an instruction has (R71). -/
def decodeTableWord (nbits w : Nat) : Option Instr :=
  match decode (bytesOfWord (BitVec.ofNat 16 (w % 2 ^ nbits))) with
  | .ok (i, _) => some i
  | .error _ => none

/-! ## The encoder (tables E1 and E2) -/

/-- Format A. -/
def encA (op : Nibble) (nnn : Addr12) : Word := op ++ nnn

/-- A register number as the four bits of its field. -/
def regBits (x : RegIx) : Nibble := BitVec.ofFin x

/-- Formats I and X: the low byte is an immediate or a function byte. -/
def encI (op : Nibble) (x : RegIx) (kk : Byte) : Word := op ++ regBits x ++ kk

/-- Formats R and D. -/
def encR (op : Nibble) (x y : RegIx) (low : Nibble) : Word := op ++ regBits x ++ regBits y ++ low

/-- The word of an instruction (table E2). -/
def encode : Instr → Word
  | .cls => 0x00E0#16
  | .ret => 0x00EE#16
  | .sys nnn => encA 0x0 nnn
  | .jp nnn => encA 0x1 nnn
  | .call nnn => encA 0x2 nnn
  | .seImm x kk => encI 0x3 x kk
  | .sneImm x kk => encI 0x4 x kk
  | .seReg x y z => encR 0x5 x y z
  | .ldImm x kk => encI 0x6 x kk
  | .addImm x kk => encI 0x7 x kk
  | .ldReg x y => encR 0x8 x y 0x0
  | .orReg x y => encR 0x8 x y 0x1
  | .andReg x y => encR 0x8 x y 0x2
  | .xorReg x y => encR 0x8 x y 0x3
  | .addReg x y => encR 0x8 x y 0x4
  | .subReg x y => encR 0x8 x y 0x5
  | .shr x y => encR 0x8 x y 0x6
  | .subn x y => encR 0x8 x y 0x7
  | .shl x y => encR 0x8 x y 0xE
  | .sneReg x y z => encR 0x9 x y z
  | .ldI nnn => encA 0xA nnn
  | .jpV0 nnn => encA 0xB nnn
  | .rnd x kk => encI 0xC x kk
  | .drw x y n => encR 0xD x y n
  | .skp x => encI 0xE x 0x9E
  | .sknp x => encI 0xE x 0xA1
  | .ldVxDt x => encI 0xF x 0x07
  | .ldVxK x => encI 0xF x 0x0A
  | .ldDtVx x => encI 0xF x 0x15
  | .ldStVx x => encI 0xF x 0x18
  | .addI x => encI 0xF x 0x1E
  | .ldF x => encI 0xF x 0x29
  | .ldB x => encI 0xF x 0x33
  | .ldMemVx x => encI 0xF x 0x55
  | .ldVxMem x => encI 0xF x 0x65
  | .invalid w => w

/-- The bytes of an instruction in memory order. -/
def encodeBytes (i : Instr) : List Byte := bytesOfWord (encode i)

/-! ## Table E2 as rows (R88) -/

/-- A row of the opcode table: `w` selects the row when `w &&& mask = pattern`. -/
structure OpRow where
  mnemonic : String
  pattern : Word
  mask : Word
  deriving DecidableEq, Repr

/-- `w` selects the row (R88). -/
def OpRow.matches (r : OpRow) (w : Word) : Bool := w &&& r.mask == r.pattern

/-- The rows of opcode_table.json, in its order; the first that matches is the decoder's answer
(R88). -/
def opcodeTable : List OpRow :=
  [⟨"CLS", 0x00E0, 0xFFFF⟩, ⟨"RET", 0x00EE, 0xFFFF⟩, ⟨"SYS_nnn", 0x0000, 0xF000⟩,
   ⟨"JP_nnn", 0x1000, 0xF000⟩, ⟨"CALL_nnn", 0x2000, 0xF000⟩, ⟨"SE_Vx__kk", 0x3000, 0xF000⟩,
   ⟨"SNE_Vx__kk", 0x4000, 0xF000⟩, ⟨"SE_Vx__Vy", 0x5000, 0xF000⟩, ⟨"LD_Vx__kk", 0x6000, 0xF000⟩,
   ⟨"ADD_Vx__kk", 0x7000, 0xF000⟩, ⟨"LD_Vx__Vy", 0x8000, 0xF00F⟩, ⟨"OR_Vx__Vy", 0x8001, 0xF00F⟩] ++
  [⟨"AND_Vx__Vy", 0x8002, 0xF00F⟩, ⟨"XOR_Vx__Vy", 0x8003, 0xF00F⟩, ⟨"ADD_Vx__Vy", 0x8004, 0xF00F⟩,
   ⟨"SUB_Vx__Vy", 0x8005, 0xF00F⟩, ⟨"SHR_Vx", 0x8006, 0xF00F⟩, ⟨"SUBN_Vx__Vy", 0x8007, 0xF00F⟩,
   ⟨"SHL_Vx", 0x800E, 0xF00F⟩, ⟨"SNE_Vx__Vy", 0x9000, 0xF000⟩, ⟨"LD_I__nnn", 0xA000, 0xF000⟩,
   ⟨"JP_V0__nnn", 0xB000, 0xF000⟩, ⟨"RND_Vx__kk", 0xC000, 0xF000⟩, ⟨"DRW_Vx__Vy__n", 0xD000, 0xF000⟩] ++
  [⟨"SKP_Vx", 0xE09E, 0xF0FF⟩, ⟨"SKNP_Vx", 0xE0A1, 0xF0FF⟩, ⟨"LD_Vx__DT", 0xF007, 0xF0FF⟩,
   ⟨"LD_Vx__K", 0xF00A, 0xF0FF⟩, ⟨"LD_DT__Vx", 0xF015, 0xF0FF⟩, ⟨"LD_ST__Vx", 0xF018, 0xF0FF⟩,
   ⟨"ADD_I__Vx", 0xF01E, 0xF0FF⟩, ⟨"LD_F__Vx", 0xF029, 0xF0FF⟩, ⟨"LD_B__Vx", 0xF033, 0xF0FF⟩,
   ⟨"LD__I___Vx", 0xF055, 0xF0FF⟩, ⟨"LD_Vx___I", 0xF065, 0xF0FF⟩, ⟨"INVALID", 0x0000, 0x0000⟩]

/-- The table's first matching row (R88). -/
def tableRow (w : Word) : Option OpRow := opcodeTable.find? (·.matches w)

/-- The table's mnemonic of an instruction. -/
def Instr.mnemonic : Instr → String
  | .cls => "CLS"
  | .ret => "RET"
  | .sys _ => "SYS_nnn"
  | .jp _ => "JP_nnn"
  | .call _ => "CALL_nnn"
  | .seImm _ _ => "SE_Vx__kk"
  | .sneImm _ _ => "SNE_Vx__kk"
  | .seReg _ _ _ => "SE_Vx__Vy"
  | .ldImm _ _ => "LD_Vx__kk"
  | .addImm _ _ => "ADD_Vx__kk"
  | .ldReg _ _ => "LD_Vx__Vy"
  | .orReg _ _ => "OR_Vx__Vy"
  | .andReg _ _ => "AND_Vx__Vy"
  | .xorReg _ _ => "XOR_Vx__Vy"
  | .addReg _ _ => "ADD_Vx__Vy"
  | .subReg _ _ => "SUB_Vx__Vy"
  | .shr _ _ => "SHR_Vx"
  | .subn _ _ => "SUBN_Vx__Vy"
  | .shl _ _ => "SHL_Vx"
  | .sneReg _ _ _ => "SNE_Vx__Vy"
  | .ldI _ => "LD_I__nnn"
  | .jpV0 _ => "JP_V0__nnn"
  | .rnd _ _ => "RND_Vx__kk"
  | .drw _ _ _ => "DRW_Vx__Vy__n"
  | .skp _ => "SKP_Vx"
  | .sknp _ => "SKNP_Vx"
  | .ldVxDt _ => "LD_Vx__DT"
  | .ldVxK _ => "LD_Vx__K"
  | .ldDtVx _ => "LD_DT__Vx"
  | .ldStVx _ => "LD_ST__Vx"
  | .addI _ => "ADD_I__Vx"
  | .ldF _ => "LD_F__Vx"
  | .ldB _ => "LD_B__Vx"
  | .ldMemVx _ => "LD__I___Vx"
  | .ldVxMem _ => "LD_Vx___I"
  | .invalid _ => "INVALID"

end Sys2Proof
end

