-- ==== Sys2Proof/Machine/State.lean ====
section
/-! DEFINITION. The state of the machine (10_state.md R20), the steps and inputs the host gives it
(00_scope.md R12, 40_tick_cycle.md table T1), the events it emits (R109), the reasons a step of the
model can stop, and the state after reset (R36, R220). -/

namespace Sys2Proof.Machine

/-- `MEM` (R27): the cells that differ from their reset contents, addresses strictly rising. What an
unlisted address reads as, and the canonical form, are in Machine/Ops.lean. -/
abbrev Memory := List Host.Cell

/-- `FB` (R28): 32 rows of 64 cells; the cell in column `c` of a row is bit `c` of the row. -/
abbrev FrameBuffer := Vector (BitVec 64) 32

/-- The inputs a `Tick` samples (R34, R101, R110, R111). `stDue` is the second timer input of the
alternative `TIMER_DUE_SHARED = false` (D2); nothing reads it under the default. -/
structure TickIn where
  timerDue : Bool
  stDue : Bool
  keysHeld : BitVec 16
  randByte : Byte
  deriving DecidableEq, Repr

/-- The steps the host can issue (R12). -/
inductive HostStep where
  /-- R103. -/
  | tick (inputs : TickIn)
  /-- R107. -/
  | keyPress (k : KeyCode)
  /-- R108. -/
  | renderAck
  /-- R220. -/
  | reset (rom : List Byte)
  deriving DecidableEq, Repr

/-- The pulse outputs of a step (R109). -/
inductive Event where
  /-- `tone_request` with `tone_ms` (R172, R177). -/
  | toneRequest (ms : BitVec 16)
  /-- `invalid_opcode` with `invalid_word` and `invalid_pc` (R186). -/
  | invalidOpcode (word pc : Word)
  deriving DecidableEq, Repr

/-- The fatal faults (R190, table X1). -/
inductive HaltKind where
  /-- RET with an empty stack (R191). -/
  | stackUnderflow
  /-- CALL with a full stack (R192). -/
  | stackOverflow
  deriving DecidableEq, Repr

/-- What the halt latch records (R33, R194): the fault and the `PC` of the faulting instruction. -/
structure HaltInfo where
  kind : HaltKind
  pc : Word
  deriving DecidableEq, Repr

/-- The complete state (R20), then the model's own five fields. -/
@[ext]
structure State where
  /-- `MEM` (R27). -/
  mem : Memory
  /-- `V[0]` to `V[15]` (R21). -/
  v : Vector Byte 16
  /-- `I` (R23). -/
  i : Word
  /-- `PC` (R24). -/
  pc : Word
  /-- The live entries of `STACK`, newest first; `SP` is their number (R26). -/
  stack : List Word
  /-- `FB` (R28). -/
  fb : FrameBuffer
  /-- `DT` (R29). -/
  dt : Byte
  /-- `ST` (R30). -/
  st : Byte
  /-- `WAIT`: the pending register while a wait is pending (R31). -/
  wait : Option RegIx
  /-- `DREW` (R32). -/
  drew : Bool
  /-- `HALT` (R33). -/
  halt : Option HaltInfo
  /-- MODEL'S OWN: the pulse outputs during the last step (R109). DESIGN CHOICE, log 4. -/
  event : Option Event
  /-- MODEL'S OWN: the inputs the current tick sampled (R34). DESIGN CHOICE, log 5. -/
  ports : TickIn
  /-- MODEL'S OWN: the steps the host issues next, first first (R12, R112). DESIGN CHOICE, log 1. -/
  schedule : List HostStep
  /-- MODEL'S OWN: how many ticks took free inputs so far. DESIGN CHOICE, log 3. -/
  tickNo : Nat
  /-- MODEL'S OWN: the parameters of table P1 this machine is built with (R8). Every step and meaning reads
  them here and none changes them. DESIGN CHOICE, log 42. -/
  config : Config
  deriving DecidableEq, Repr

/-- Why the model stops where the machine of the spec may go on. -/
inductive Fault where
  /-- Raised by SKP and SKNP under the alternative `KEY_INDEX_POLICY = fault_above_15` when `V[x] > 15`
  (R176, D18); never raised under the default. Safe: the model stops. Log 17. -/
  | keyIndexAbove15 (x : RegIx)
  deriving DecidableEq, Repr

/-- What the model gives no meaning. -/
inductive Refusal where
  /-- Raised by `exec` for an instruction with no meaning yet; no arm of `exec` raises it. Safe. -/
  | notModelled (mnemonic : String)
  /-- Raised by a `Reset(rom)` step whose image is longer than `MEM_SIZE - PROG_BASE`, by default 3584
  bytes, which the spec says a model refuses (R221). Safe. Log 26. -/
  | romTooLong (length : Nat)
  /-- Raised by a tick's fetch, and by LD B, LD [I],Vx, LD Vx,[I] and DRW, under the alternative
  `ADDR_WRAP = refuseAbove` when one of the `count` bytes from `address` on lies above 4095 (D8); never
  raised under the default. Safe: the model stops. Log 21. -/
  | addressAbove4095 (address count : Nat)
  /-- Raised by LD F under the alternative `FONT_DIGIT_POLICY = refuseAbove15` when `V[x] > 15` (R155,
  D19); never raised under the default. Safe: the model stops. Log 18. -/
  | fontDigitAbove15 (x : RegIx)
  deriving DecidableEq, Repr

/-- What a meaning and a step answer. -/
abbrev Result := Host.Outcome State Fault Refusal

/-- All sampled inputs low: the value of `State.ports` before any tick. -/
def TickIn.low : TickIn := ⟨false, false, 0, 0⟩

/-- The state after `Reset` with an empty program image (R36 table S2, R220), of a machine with these
parameters. -/
def State.resetWith (c : Config) : State where
  mem := []
  v := Vector.replicate 16 0
  i := 0
  pc := BitVec.ofNat 16 c.progBase
  stack := []
  fb := Vector.replicate 32 0
  dt := 0
  st := 0
  wait := none
  drew := false
  halt := none
  event := none
  ports := TickIn.low
  schedule := []
  tickNo := 0
  config := c

/-- The reset state of the machine whose parameters are the defaults of table P1 (R8, R36). -/
def State.reset : State := State.resetWith Config.current

end Sys2Proof.Machine
end

