-- ==== Sys2Proof/Machine/Ops.lean ====
section
/-! DEFINITION. The named operations over memory, registers, stack, timers and latches that the steps and
the instructions share (R11), among them the one fault entry (R194). There is no return from a fault
beside it, because the machine has none (R199): only `Reset` clears the latch. -/

namespace Sys2Proof.Machine

/-! ## Memory cells -/

/-- Every memory address is reduced modulo 4096 at the access (R52). Under `ADDR_WRAP = refuseAbove` an access
reaches this only with addresses the reduction leaves alone (guardAccess). -/
def wrapAddr (a : Nat) : Nat := a % memSize

/-- Whether the policy allows an access to the `n` bytes from `a` on (R52, D8): always, or, under the
alternative, when none of them lies above 4095. -/
def accessAllowed (p : AddrWrap) (a n : Nat) : Bool :=
  match p with
  | .modulo => true
  | .refuseAbove => n == 0 || decide (a + n ≤ memSize)

/-- `ADDR_WRAP` (R52, D8): a step or an operation that accesses the `n` bytes from `a` on answers `r`; under
the alternative policy it is refused as a whole when the access is not allowed (log 21). -/
def guardAccess (p : AddrWrap) (a n : Nat) (r : Result) : Result :=
  if accessAllowed p a n then r else .refused (.addressAbove4095 a n)

/-- What an unlisted cell reads as: its reset contents (R36 table S2). -/
def Memory.unlisted (cfg : Config) (a : Nat) : Byte := cfg.resetByte a

/-- The byte of cell `a`. -/
def Memory.read (cfg : Config) : Memory → Nat → Byte
  | [], a => Memory.unlisted cfg a
  | (b, w) :: rest, a => if a = b then w else Memory.read cfg rest a

/-- The cell `a` with value `v` before `rest`, left out where it holds what an unlisted cell reads as. -/
def Memory.consCell (cfg : Config) (a : Nat) (v : Byte) (rest : Memory) : Memory :=
  if v = Memory.unlisted cfg a then rest else (a, v) :: rest

/-- Cell `a` set to `v`, keeping the canonical form. -/
def Memory.write (cfg : Config) : Memory → Nat → Byte → Memory
  | [], a, v => Memory.consCell cfg a v []
  | (b, w) :: rest, a, v =>
    if a < b then Memory.consCell cfg a v ((b, w) :: rest)
    else if a = b then Memory.consCell cfg a v rest
    else (b, w) :: Memory.write cfg rest a v

/-- The canonical form: addresses strictly rising and below 4096, no cell at its reset contents. -/
abbrev Memory.wf (cfg : Config) (m : Memory) : Prop :=
  m.Pairwise (fun c d => c.1 < d.1) ∧ ∀ c ∈ m, c.1 < memSize ∧ c.2 ≠ Memory.unlisted cfg c.1

/-- `MemRead(a, 1)` (R11, R52). -/
def Memory.readByte (cfg : Config) (m : Memory) (a : Nat) : Byte := Memory.read cfg m (wrapAddr a)

/-- `MemWrite(a, 1, v)` (R11, R52). -/
def Memory.writeByte (cfg : Config) (m : Memory) (a : Nat) (v : Byte) : Memory :=
  Memory.write cfg m (wrapAddr a) v

/-- `MemRead(a, 2)`: the byte at the lower address is the high byte (R11, R53). -/
def Memory.readWord (cfg : Config) (m : Memory) (a : Nat) : Word :=
  wordOfBytes (Memory.readByte cfg m a) (Memory.readByte cfg m (a + 1))

/-- `MemWrite` of consecutive bytes from `a` on, in ascending order (R66). -/
def Memory.writeBytes (cfg : Config) (m : Memory) (a : Nat) : List Byte → Memory
  | [] => m
  | v :: vs => Memory.writeBytes cfg (Memory.writeByte cfg m a v) (a + 1) vs

/-- `MemRead(a, 1)` of the state's memory. -/
def State.readByte (s : State) (a : Nat) : Byte := Memory.readByte s.config s.mem a

/-- `MemWrite` of consecutive bytes into the state's memory. -/
def State.writeBytes (s : State) (a : Nat) (vs : List Byte) : State :=
  { s with mem := Memory.writeBytes s.config s.mem a vs }

/-- The instruction fetch (R53): the word at `PC`. It changes nothing and cannot fail. -/
def State.fetchWord (s : State) : Word := Memory.readWord s.config s.mem s.pc.toNat

/-- Fetch and decode (R103 step 2, R74): the instruction at `PC`. -/
def State.fetched (s : State) : Instr := decodeWordWith s.config.lowNibble59 s.fetchWord

/-! ## Registers -/

/-- `V[x]` (R21). -/
def State.reg (s : State) (x : RegIx) : Byte := s.v.get x

/-- `V[x] <- b` (R21). -/
def State.setReg (s : State) (x : RegIx) (b : Byte) : State := { s with v := s.v.set x.val b x.isLt }

/-- `I <- a` (R23). -/
def State.setI (s : State) (a : Word) : State := { s with i := a }

/-- `pc <- t` (R11). -/
def State.setPc (s : State) (t : Word) : State := { s with pc := t }

/-- `PC <- (PC + d) mod 65536` (R25). -/
def State.advance (s : State) (d : Word) : State := { s with pc := s.pc + d }

/-- `DT <- b` (R29). -/
def State.setDt (s : State) (b : Byte) : State := { s with dt := b }

/-- `ST <- b` (R30). -/
def State.setSt (s : State) (b : Byte) : State := { s with st := b }

/-- `WAIT` (R31): `some x` is `WAIT.valid = 1` with `WAIT.reg = x`, `none` is `WAIT.valid = 0`. -/
def State.setWait (s : State) (w : Option RegIx) : State := { s with wait := w }

/-- `DREW <- b` (R32). -/
def State.setDrew (s : State) (b : Bool) : State := { s with drew := b }

/-- `FB <- fb` (R28). -/
def State.setFb (s : State) (fb : FrameBuffer) : State := { s with fb := fb }

/-- `HALT <- h` (R33). -/
def State.setHalt (s : State) (h : Option HaltInfo) : State := { s with halt := h }

/-- The live stack entries (R26). -/
def State.setStack (s : State) (l : List Word) : State := { s with stack := l }

/-! ## The call stack (R26) -/

/-- `SP`: the number of live entries. -/
def State.sp (s : State) : Nat := s.stack.length

/-- `STACK[k]` of a live entry, `k < SP`; entries at or above `SP` have no value. -/
def State.stackEntry (s : State) (k : Nat) : Option Word := s.stack.reverse[k]?

/-- Whether a push finds the stack full: `SP = STACK_DEPTH`. A count above the depth, which no run
reaches, is taken as full too (DEDUCED, log 9). -/
def State.stackFull (s : State) : Bool := s.config.stackDepth ≤ s.sp

/-- `STACK[SP] <- a; SP <- SP + 1`. -/
def State.push (s : State) (a : Word) : State := s.setStack (a :: s.stack)

/-! ## Faults and events -/

/-- `raise Fault(kind)` (R194): `HALT <- (kind, PC)` and nothing else. -/
def State.takeFault (s : State) (k : HaltKind) : State := s.setHalt (some ⟨k, s.pc⟩)

/-- `emit Event` (R11): the pulse is on its port during this step. -/
def State.emit (s : State) (e : Event) : State := { s with event := some e }

/-! ## Timers (R200) -/

/-- One timer: down by one when its time has come and it is not zero. -/
def countDown (due : Bool) (t : Byte) : Byte := if t != 0 && due then t - 1 else t

/-- `TimerAdvance` (R200), each timer under its own due input. -/
def State.timerAdvance (s : State) (dtDue stDue : Bool) : State :=
  (s.setDt (countDown dtDue s.dt)).setSt (countDown stDue s.st)

/-- The due input of the sound timer: the shared one, or its own under the alternative
`TIMER_DUE_SHARED = false` (D2). -/
def soundDue (shared : Bool) (inputs : TickIn) : Bool :=
  if shared then inputs.timerDue else inputs.stDue

/-! ## The model's own fields -/

/-- A step begins: no pulse of an earlier step is on a port any more (R109). -/
def State.beginStep (s : State) : State := { s with event := none }

/-- A tick samples its inputs (R34). -/
def State.sample (s : State) (inputs : TickIn) : State := { s with ports := inputs }

/-- The host's step is taken off the list. -/
def State.setSchedule (s : State) (l : List HostStep) : State := { s with schedule := l }

/-- One more tick took free inputs. -/
def State.countTick (s : State) : State := { s with tickNo := s.tickNo + 1 }

/-- The free inputs of the `n`-th tick the schedule does not list (R101, R110, R111; log 2). -/
def freeTickIn (n : Nat) : TickIn :=
  ⟨Config.freeTimerDue n, Config.freeStDue n, Config.freeKeysHeld n, Config.freeRandByte n⟩

/-- The host's next step and the state without it: the head of the schedule, or, when the schedule is
empty, a tick with free inputs (log 1, log 2). -/
def nextHostStep (s : State) : HostStep × State :=
  match s.schedule with
  | [] => (.tick (freeTickIn s.tickNo), s.countTick)
  | h :: rest => (h, s.setSchedule rest)

/-! ## Putting an instruction where the next tick fetches it -/

/-- The schedule from its first tick on. -/
def fromFirstTick : List HostStep → List HostStep
  | [] => []
  | .tick inputs :: rest => .tick inputs :: rest
  | .keyPress _ :: rest => fromFirstTick rest
  | .renderAck :: rest => fromFirstTick rest
  | .reset _ :: rest => fromFirstTick rest

/-- The word's bytes at `PC`, no fault latched, no wait pending, and a tick as the host's next step
(log 27). -/
def State.placeWord (s : State) (w : Word) : State :=
  (((s.writeBytes s.pc.toNat (bytesOfWord w)).setHalt none).setWait none).setSchedule
    (fromFirstTick s.schedule)

end Sys2Proof.Machine
end

