-- ==== Sys2Proof/Machine/Flags.lean ====
section
/-! DEFINITION. Every computation of the flag register `VF` (R22) outside DRW, and the order in which the
result and the flag are written (R127, R135). -/

namespace Sys2Proof.Machine

/-- A flag as `VF` holds it: the 8-bit value 0 or 1 (R22). -/
def flagByte (b : Bool) : Byte := if b then 1 else 0

/-- Carry out of bit 7 of an addition (R123). -/
def addCarry (a b : Byte) : Bool := 255 < a.toNat + b.toNat

/-- No borrow in `a - b`: `a >= b` before the subtraction (R124, R125). -/
def noBorrow (a b : Byte) : Bool := b.toNat ≤ a.toNat

/-- The bit a right shift loses (R133). -/
def outRight (b : Byte) : Bool := b.getLsbD 0

/-- The bit a left shift loses (R134). -/
def outLeft (b : Byte) : Bool := b.getLsbD 7

/-- `b >> 1`, logical (R133). -/
def shiftRight (b : Byte) : Byte := b >>> 1

/-- `(b << 1) mod 256` (R134). -/
def shiftLeft (b : Byte) : Byte := b <<< 1

/-- The two writes of ADD Vx,Vy, SUB and SUBN, the operands having been read (R127). -/
def State.writeArith (s : State) (order : VfOrderArith) (x : RegIx) (result : Byte) (flag : Bool) :
    State :=
  match order with
  | .flagLast => (s.setReg x result).setReg vf (flagByte flag)
  | .resultLast => (s.setReg vf (flagByte flag)).setReg x result

/-- The two writes of SHR and SHL (R135). Under `sequential` the flag is written first and the shift reads
`V[x]` again. -/
def State.writeShift (s : State) (order : VfOrderShift) (x : RegIx) (out : Byte → Bool)
    (shift : Byte → Byte) : State :=
  match order with
  | .sequential => (s.setReg vf (flagByte (out (s.reg x)))).setReg x
      (shift ((s.setReg vf (flagByte (out (s.reg x)))).reg x))
  | .flagLast => (s.setReg x (shift (s.reg x))).setReg vf (flagByte (out (s.reg x)))
  | .resultLast => (s.setReg vf (flagByte (out (s.reg x)))).setReg x (shift (s.reg x))

end Sys2Proof.Machine
end

