-- ==== Sys2Proof/Machine/Operands.lean ====
section
/-! DEFINITION. The operand forms: addresses, skip distances, key and digit indexes, decimal digits, the
registers of a bulk transfer, the tone duration. Every operand is unsigned (R10, R84). -/

namespace Sys2Proof.Machine

/-- `zext_16(nnn)` (R84). -/
def zextAddr (nnn : Addr12) : Word := nnn.setWidth 16

/-- `zext_16(v)` of a register value (R84). -/
def zextByte (v : Byte) : Word := v.setWidth 16

/-- `zext_8(k)` of a key code (R107). -/
def zextKey (k : KeyCode) : Byte := k.setWidth 8

/-- The distance `PC` moves: 4 when a skip is taken, 2 otherwise (R25, R149). -/
def skipDistance (taken : Bool) : Word := if taken then 4 else 2

/-- The address of the first byte a data access names; byte `k` is at this address plus `k`, reduced at
the access (R156, R52). -/
def State.dataAddr (s : State) : Nat := s.i.toNat

/-- The key SKP and SKNP query (R176): the low four bits, or, under the alternative policy, no key when
the value is above 15. -/
def keyIndex (p : KeyIndexPolicy) (v : Byte) : Option KeyCode :=
  match p with
  | .low4 => some (v.extractLsb' 0 4)
  | .faultAbove15 => if v.toNat ≤ 15 then some (v.extractLsb' 0 4) else none

/-- `keys_held[k]` of the inputs the tick sampled (R101). -/
def State.keyHeld (s : State) (k : KeyCode) : Bool := s.ports.keysHeld.getLsbD k.toNat

/-- The digit LD F,Vx looks up (R155): the low four bits, or, under the alternative policy, no digit when
the value is above 15. -/
def fontDigit (p : FontDigitPolicy) (v : Byte) : Option Nibble :=
  match p with
  | .low4 => some (v.extractLsb' 0 4)
  | .refuseAbove15 => if v.toNat ≤ 15 then some (v.extractLsb' 0 4) else none

/-- The address of a glyph: `FONT_BASE + 5 * d` (R155, R51). -/
def glyphAddr (fontBase : Nat) (d : Nibble) : Word := BitVec.ofNat 16 (fontBase + 5 * d.toNat)

/-- Hundreds, tens, units, one byte each (R152). -/
def bcdDigits (v : Byte) : List Byte :=
  [BitVec.ofNat 8 (v.toNat / 100), BitVec.ofNat 8 (v.toNat / 10 % 10), BitVec.ofNat 8 (v.toNat % 10)]

/-- `V[0]` to `V[x]`, in that order (R153). -/
def State.regsUpTo (s : State) (x : RegIx) : List Byte :=
  (List.range (x.val + 1)).map fun i => s.reg (Fin.ofNat 16 i)

/-- `V[j] <- MemRead(a + j, 1)` for `j` from 0 to `k - 1`, ascending; the reads are of the memory as it
was before (R154, R66). -/
def State.loadRegs (s : State) (a : Nat) : Nat → State
  | 0 => s
  | k + 1 => (State.loadRegs s a k).setReg (Fin.ofNat 16 k) (s.readByte (a + k))

/-- The tone's duration in milliseconds, `v * 1000 / 60` rounded as `TONE_ROUNDING` says (R177, log 20). -/
def toneMs (p : ToneRounding) (v : Byte) : BitVec 16 :=
  match p with
  | .floor => BitVec.ofNat 16 (v.toNat * 1000 / 60)
  | .nearest => BitVec.ofNat 16 ((v.toNat * 1000 + 30) / 60)
  | .up => BitVec.ofNat 16 ((v.toNat * 1000 + 59) / 60)

end Sys2Proof.Machine
end

