-- ==== Sys2Proof/Machine/Arithmetic.lean ====
section
/-! DEFINITION. Register load and arithmetic (41_load_arithmetic.md). All arithmetic is unsigned and wraps
modulo 256 (R126). -/

namespace Sys2Proof.Machine

/-- LD Vx, kk (R120). -/
def execLdImm (x : RegIx) (kk : Byte) (s : State) : Result := .next ((s.setReg x kk).advance 2)

/-- ADD Vx, kk (R121): no flag. -/
def execAddImm (x : RegIx) (kk : Byte) (s : State) : Result :=
  .next ((s.setReg x (s.reg x + kk)).advance 2)

/-- LD Vx, Vy (R122). -/
def execLdReg (x y : RegIx) (s : State) : Result := .next ((s.setReg x (s.reg y)).advance 2)

/-- ADD Vx, Vy (R123): `VF` is the carry. -/
def execAddReg (x y : RegIx) (s : State) : Result :=
  .next ((s.writeArith s.config.vfOrderArith x (s.reg x + s.reg y)
    (addCarry (s.reg x) (s.reg y))).advance 2)

/-- SUB Vx, Vy (R124): `V[x] - V[y]`, `VF` is 1 when there is no borrow. -/
def execSubReg (x y : RegIx) (s : State) : Result :=
  .next ((s.writeArith s.config.vfOrderArith x (s.reg x - s.reg y)
    (noBorrow (s.reg x) (s.reg y))).advance 2)

/-- SUBN Vx, Vy (R125): `V[y] - V[x]`, `VF` is 1 when there is no borrow. -/
def execSubn (x y : RegIx) (s : State) : Result :=
  .next ((s.writeArith s.config.vfOrderArith x (s.reg y - s.reg x)
    (noBorrow (s.reg y) (s.reg x))).advance 2)

end Sys2Proof.Machine
end

