-- ==== Sys2Proof/Machine/Bitwise.lean ====
section
/-! DEFINITION. Bitwise operations and shifts (42_bitwise.md). The logic operations write no flag (R136);
the shifts shift `V[x]` in place and ignore `y` (R137). -/

namespace Sys2Proof.Machine

/-- OR Vx, Vy (R130). -/
def execOrReg (x y : RegIx) (s : State) : Result :=
  .next ((s.setReg x (s.reg x ||| s.reg y)).advance 2)

/-- AND Vx, Vy (R131). -/
def execAndReg (x y : RegIx) (s : State) : Result :=
  .next ((s.setReg x (s.reg x &&& s.reg y)).advance 2)

/-- XOR Vx, Vy (R132). -/
def execXorReg (x y : RegIx) (s : State) : Result :=
  .next ((s.setReg x (s.reg x ^^^ s.reg y)).advance 2)

/-- SHR Vx (R133): `VF` is the bit shifted out. -/
def execShr (x _y : RegIx) (s : State) : Result :=
  .next ((s.writeShift s.config.vfOrderShift x outRight shiftRight).advance 2)

/-- SHL Vx (R134): `VF` is the bit shifted out. -/
def execShl (x _y : RegIx) (s : State) : Result :=
  .next ((s.writeShift s.config.vfOrderShift x outLeft shiftLeft).advance 2)

end Sys2Proof.Machine
end

