-- ==== Sys2Proof/Machine/ControlFlow.lean ====
section
/-! DEFINITION. Control flow (43_control_flow.md). No target is checked (R148); a skip looks at no word,
it only moves `PC` by 4 (R149). -/

namespace Sys2Proof.Machine

/-- JP nnn (R140). -/
def execJp (nnn : Addr12) (s : State) : Result := .next (s.setPc (zextAddr nnn))

/-- JP V0, nnn (R141). -/
def execJpV0 (nnn : Addr12) (s : State) : Result :=
  .next (s.setPc (zextAddr nnn + zextByte (s.reg 0)))

/-- CALL nnn (R142): a full stack is the fatal fault, tested before any write (R192, R193). -/
def execCall (nnn : Addr12) (s : State) : Result :=
  if s.stackFull then .next (s.takeFault .stackOverflow)
  else .next ((s.push (s.pc + 2)).setPc (zextAddr nnn))

/-- RET (R143): an empty stack is the fatal fault (R191, R193). -/
def execRet (s : State) : Result :=
  match s.stack with
  | [] => .next (s.takeFault .stackUnderflow)
  | top :: rest => .next ((s.setStack rest).setPc top)

/-- SE Vx, kk (R144). -/
def execSeImm (x : RegIx) (kk : Byte) (s : State) : Result :=
  .next (s.advance (skipDistance (s.reg x == kk)))

/-- SNE Vx, kk (R145). -/
def execSneImm (x : RegIx) (kk : Byte) (s : State) : Result :=
  .next (s.advance (skipDistance (s.reg x != kk)))

/-- SE Vx, Vy (R146); the low nibble is ignored (R81). -/
def execSeReg (x y : RegIx) (_z : Nibble) (s : State) : Result :=
  .next (s.advance (skipDistance (s.reg x == s.reg y)))

/-- SNE Vx, Vy (R147); the low nibble is ignored (R81). -/
def execSneReg (x y : RegIx) (_z : Nibble) (s : State) : Result :=
  .next (s.advance (skipDistance (s.reg x != s.reg y)))

end Sys2Proof.Machine
end

