-- ==== Sys2Proof/Machine/Display.lean ====
section
/-! DEFINITION. The framebuffer and sprite compositing (45_display.md). -/

namespace Sys2Proof.Machine

/-- `FB[row][col]` (R28). -/
def FrameBuffer.cell (fb : FrameBuffer) (row : Fin 32) (col : Fin 64) : Bool :=
  (fb.get row).getLsbD col.val

/-- `FB[row][col] <- FB[row][col] XOR 1` (R161). -/
def FrameBuffer.flip (fb : FrameBuffer) (row : Fin 32) (col : Fin 64) : FrameBuffer :=
  fb.set row.val (fb.get row ^^^ BitVec.twoPow 64 col.val) row.isLt

/-- Every cell off (R160). -/
def FrameBuffer.blank : FrameBuffer := Vector.replicate 32 0

/-- What DRW carries through its loops: the framebuffer so far and `hit` (R161). -/
abbrev Drawing := FrameBuffer × Bool

/-- One set sprite bit over a cell: `hit` when the cell was on, and the cell is flipped (R161). -/
def plot (d : Drawing) (row : Fin 32) (col : Fin 64) : Drawing :=
  (FrameBuffer.flip d.1 row col, d.2 || FrameBuffer.cell d.1 row col)

/-- The first `k` columns of the sprite row `b`, ascending; column `c` is bit `7 - c` and lands on column
`(ox + c) mod 64` (R161, R162). -/
def drawRow (b : Byte) (row : Fin 32) (ox : Nat) : Nat → Drawing → Drawing
  | 0, d => d
  | c + 1, d =>
    if b.getLsbD (7 - c) then plot (drawRow b row ox c d) row (Fin.ofNat 64 (ox + c))
    else drawRow b row ox c d

/-- The first `n` rows of a sprite, ascending; row `r` is the byte `sprite r` and lands on row
`(oy + r) mod 32` (R161, R162). -/
def drawRows (sprite : Nat → Byte) (ox oy : Nat) : Nat → Drawing → Drawing
  | 0, d => d
  | r + 1, d =>
    drawRow (sprite r) (Fin.ofNat 32 (oy + r)) ox 8 (drawRows sprite ox oy r d)

/-- CLS (R160). -/
def execCls (s : State) : Result :=
  .next (((s.setFb FrameBuffer.blank).setDrew true).advance 2)

/-- Row `r` of the sprite at `I`: the byte at `I + r` (R161, R167). -/
def State.spriteRow (s : State) (r : Nat) : Byte := s.readByte (s.dataAddr + r)

/-- What DRW leaves of the framebuffer and of `hit`; the coordinates and the sprite are read from the
state before (R161, R164). -/
def State.drawSprite (s : State) (x y : RegIx) (n : Nibble) : Drawing :=
  drawRows s.spriteRow (s.reg x).toNat (s.reg y).toNat n.toNat (s.fb, false)

/-- DRW Vx, Vy, n (R161): `VF` is written once, at the end (R163). -/
def execDrw (x y : RegIx) (n : Nibble) (s : State) : Result :=
  guardAccess s.config.addrWrap s.dataAddr n.toNat
    (.next ((((s.setFb (s.drawSprite x y n).1).setReg vf (flagByte (s.drawSprite x y n).2)).setDrew
      true).advance 2))

end Sys2Proof.Machine
end

