-- ==== Sys2Proof/Machine/MemoryIndex.lean ====
section
/-! DEFINITION. Memory and index register (44_memory_index.md). Every data address is `I` plus an offset,
reduced at the access; `I` is left as it was by the transfers (R156); nothing faults under the
default parameters (R157). -/

namespace Sys2Proof.Machine

/-- LD I, nnn (R150). -/
def execLdI (nnn : Addr12) (s : State) : Result := .next ((s.setI (zextAddr nnn)).advance 2)

/-- ADD I, Vx (R151): modulo 65536, no flag. -/
def execAddI (x : RegIx) (s : State) : Result :=
  .next ((s.setI (s.i + zextByte (s.reg x))).advance 2)

/-- LD F, Vx (R155): the address of the glyph of the low four bits. Under the alternative digit policy a value
above 15 is refused (log 18). -/
def execLdF (x : RegIx) (s : State) : Result :=
  match fontDigit s.config.fontDigit (s.reg x) with
  | some d => .next ((s.setI (glyphAddr s.config.fontBase d)).advance 2)
  | none => .refused (.fontDigitAbove15 x)

/-- LD B, Vx (R152): hundreds, tens, units at `I`, `I + 1`, `I + 2`. -/
def execLdB (x : RegIx) (s : State) : Result :=
  guardAccess s.config.addrWrap s.dataAddr 3
    (.next ((s.writeBytes s.dataAddr (bcdDigits (s.reg x))).advance 2))

/-- LD [I], Vx (R153): `V[0]` to `V[x]` from `I` on. -/
def execLdMemVx (x : RegIx) (s : State) : Result :=
  guardAccess s.config.addrWrap s.dataAddr (x.val + 1)
    (.next ((s.writeBytes s.dataAddr (s.regsUpTo x)).advance 2))

/-- LD Vx, [I] (R154): `V[0]` to `V[x]` from the bytes from `I` on. -/
def execLdVxMem (x : RegIx) (s : State) : Result :=
  guardAccess s.config.addrWrap s.dataAddr (x.val + 1)
    (.next ((s.loadRegs s.dataAddr (x.val + 1)).advance 2))

end Sys2Proof.Machine
end

