-- ==== Sys2Proof/Machine/Random.lean ====
section
/-! DEFINITION. The random operation (47_random.md). -/

namespace Sys2Proof.Machine

/-- RND Vx, kk (R180): the byte is the input the tick sampled (R110). -/
def execRnd (x : RegIx) (kk : Byte) (s : State) : Result :=
  .next ((s.setReg x (s.ports.randByte &&& kk)).advance 2)

end Sys2Proof.Machine
end

