-- ==== Sys2Proof/Machine/SysInvalid.lean ====
section
/-! DEFINITION. SYS and the unrecognized-opcode fallback (48_sys_invalid.md). -/

namespace Sys2Proof.Machine

/-- An unrecognized opcode (R186): the event, and `PC` as the policy says; nothing else. -/
def State.unrecognizedOpcode (s : State) (p : InvalidPcPolicy) (w : Word) : State :=
  match p with
  | .stay => s.emit (.invalidOpcode w s.pc)
  | .advance2 => (s.emit (.invalidOpcode w s.pc)).advance 2

/-- INVALID (R186). -/
def execInvalid (w : Word) (s : State) : Result :=
  .next (s.unrecognizedOpcode s.config.invalidPc w)

/-- What SYS does under each policy (R185). -/
def State.sysOpcode (s : State) (p : SysPolicy) (q : InvalidPcPolicy) (nnn : Addr12) : State :=
  match p with
  | .asInvalid => s.unrecognizedOpcode q (encode (.sys nnn))
  | .ignore => s.advance 2

/-- SYS nnn (R185). -/
def execSys (nnn : Addr12) (s : State) : Result :=
  .next (s.sysOpcode s.config.sys s.config.invalidPc nnn)

end Sys2Proof.Machine
end

