-- ==== Sys2Proof/Machine/TimersKeys.lean ====
section
/-! DEFINITION. Timer and key operations (46_timers_keys.md). -/

namespace Sys2Proof.Machine

/-- LD Vx, DT (R170). -/
def execLdVxDt (x : RegIx) (s : State) : Result := .next ((s.setReg x s.dt).advance 2)

/-- LD DT, Vx (R171). -/
def execLdDtVx (x : RegIx) (s : State) : Result := .next ((s.setDt (s.reg x)).advance 2)

/-- LD ST, Vx (R172): the tone request is emitted for every value. -/
def execLdStVx (x : RegIx) (s : State) : Result :=
  .next (((s.setSt (s.reg x)).emit (.toneRequest (toneMs s.config.toneRounding (s.reg x)))).advance 2)

/-- SKP Vx (R173). Under the alternative key policy a value above 15 stops the model (R176, log 17). -/
def execSkp (x : RegIx) (s : State) : Result :=
  match keyIndex s.config.keyIndex (s.reg x) with
  | some k => .next (s.advance (skipDistance (s.keyHeld k)))
  | none => .fault (.keyIndexAbove15 x)

/-- SKNP Vx (R174). -/
def execSknp (x : RegIx) (s : State) : Result :=
  match keyIndex s.config.keyIndex (s.reg x) with
  | some k => .next (s.advance (skipDistance (!s.keyHeld k)))
  | none => .fault (.keyIndexAbove15 x)

/-- LD Vx, K (R175): the wait begins, `PC` is already at the next instruction, `V[x]` is written by the
later KeyPress. -/
def execLdVxK (x : RegIx) (s : State) : Result := .next ((s.setWait (some x)).advance 2)

end Sys2Proof.Machine
end

