-- ==== Sys2Proof/Machine/HostSteps.lean ====
section
/-! DEFINITION. The bodies of the host's steps (40_tick_cycle.md, 70_reset_and_hazards.md): Tick (R103),
KeyPress (R107), RenderAck (R108), Reset (R220). -/

namespace Sys2Proof.Machine

/-- `Tick` (R103) after the halt test: timer advance, fetch and decode, wait gate, execute, in this
order. The fetch and decode are pure, so they stand where their result is used (R104). -/
def runTick (s : State) : Result :=
  guardAccess s.config.addrWrap s.pc.toNat 2
    (match s.wait with
    | some _ => .next s
    | none => exec s.fetched s)

/-- The timer advance of a tick (R103 step 1, R200). -/
def State.tickTimers (s : State) : State :=
  s.timerAdvance s.ports.timerDue (soundDue s.config.timerDueShared s.ports)

/-- `Tick(timer_due, keys_held, rand_byte)` (R103). A latched fault makes it a no-op (R33). -/
def tick (inputs : TickIn) (s : State) : Result :=
  match s.halt with
  | some _ => .next (s.sample inputs)
  | none => runTick (s.sample inputs).tickTimers

/-- `KeyPress(k)` (R107). -/
def keyPress (k : KeyCode) (s : State) : Result :=
  match s.halt, s.wait with
  | none, some x => .next ((s.setReg x (zextKey k)).setWait none)
  | _, _ => .next s

/-- `RenderAck` (R108). -/
def renderAck (s : State) : Result :=
  match s.halt with
  | some _ => .next s
  | none => .next (s.setDrew false)

/-- The machine after `Reset(rom)` (R220): the reset state with the image at `PROG_BASE`; the parameters,
the host's steps to come and the count of free draws are the model's own and go on (log 26, log 42). -/
def State.afterReset (s : State) (rom : List Byte) : State :=
  let r := (State.resetWith s.config).writeBytes s.config.progBase rom
  { r with schedule := s.schedule, tickNo := s.tickNo }

/-- `Reset(rom)` (R220). An image that does not fit has no meaning (R221). -/
def resetStep (rom : List Byte) (s : State) : Result :=
  if rom.length ≤ s.config.romCapacity then .next (s.afterReset rom)
  else .refused (.romTooLong rom.length)

/-- One step of the host's choosing (R12), the pulses of the step before being over (R109). -/
def runHostStep (h : HostStep) (s : State) : Result :=
  match h with
  | .tick inputs => tick inputs s.beginStep
  | .keyPress k => keyPress k s.beginStep
  | .renderAck => renderAck s.beginStep
  | .reset rom => resetStep rom s.beginStep

end Sys2Proof.Machine
end

