-- ==== Sys2Proof/Machine/Step.lean ====
section
/-! DEFINITION. One step of the machine: the host's next step (00_scope.md R12), and the placing of an
instruction where the next step fetches it. -/

namespace Sys2Proof.Machine

/-- One step: the host's next step is taken off the schedule and its body is run. -/
def step (s : State) : Host.Outcome State Fault Refusal :=
  runHostStep (nextHostStep s).1 (nextHostStep s).2

/-- The state with the instruction of bits `w` where the very next step fetches and runs it: at `PC`, with
no fault latched, no wait pending and a tick coming next (log 27). Every instruction is one word
(R71). -/
def State.withFetchWord (s : State) (nbits w : Nat) : State :=
  s.placeWord (BitVec.ofNat 16 (w % 2 ^ nbits))

end Sys2Proof.Machine
end

