-- ==== Sys2Proof/Machine/Ports.lean ====
section
/-! DEFINITION. The output ports of 40_tick_cycle.md table T1, each a function of the state between steps. -/

namespace Sys2Proof.Machine

/-- `fb` (R102). -/
def State.fbOut (s : State) (row : Fin 32) (col : Fin 64) : Bool := FrameBuffer.cell s.fb row col

/-- `frame_changed`: the value of `DREW` (R102). -/
def State.frameChanged (s : State) : Bool := s.drew

/-- `tone_request` and `tone_ms`: present when the last step emitted the event (R109). -/
def State.toneRequest (s : State) : Option (BitVec 16) :=
  match s.event with
  | some (.toneRequest ms) => some ms
  | _ => none

/-- `invalid_opcode`, `invalid_word` and `invalid_pc` (R109). -/
def State.invalidOpcode (s : State) : Option (Word × Word) :=
  match s.event with
  | some (.invalidOpcode w p) => some (w, p)
  | _ => none

/-- `fault` (R109, R194). -/
def State.faultOut (s : State) : Bool := s.halt.isSome

/-- The code of a fatal fault (table X1, R190). -/
def HaltKind.code : HaltKind → BitVec 2
  | .stackUnderflow => 1
  | .stackOverflow => 2

/-- `fault_kind`: 0 while no fault is latched (R190). -/
def State.faultKind (s : State) : BitVec 2 :=
  match s.halt with
  | some h => h.kind.code
  | none => 0

/-- `fault_pc`: the recorded `PC` while a fault is latched (R194). What the port shows while none is latched
the spec leaves open (tables T1, X1); the model gives it no value then. DESIGN CHOICE, log 41. -/
def State.faultPc (s : State) : Option Word := s.halt.map (·.pc)

/-- `waiting`: the value of `WAIT.valid` (table T1). -/
def State.waiting (s : State) : Bool := s.wait.isSome

end Sys2Proof.Machine
end

