-- ==== Sys2Proof/Safety.lean ====
section
/-! DEFINITION. The terms claims are stated in: the parts of the state and what it is for one to be
unchanged, the invariant of a run, the situations in which the machine makes no progress (R112), and
the sprite as a set of cells (R161, R162). -/

namespace Sys2Proof.Machine

/-! ## Parts of the state -/

/-- The parts of the state (R20); `regs` is the register file without regard to single registers, `env`
is what the host supplies (the model's own fields), `config` the machine's parameters. -/
inductive Part where
  | mem | regs | index | pc | stack | fb | dt | st | wait | drew | halt | event | env | config
  deriving DecidableEq, Repr

/-- What it is for a part to be the same in two states; memory and framebuffer as they are read. -/
def Part.same (s t : State) : Part → Prop
  | .mem => ∀ a, t.readByte a = s.readByte a
  | .regs => ∀ j, t.reg j = s.reg j
  | .index => t.i = s.i
  | .pc => t.pc = s.pc
  | .stack => t.stack = s.stack
  | .fb => ∀ row col, t.fbOut row col = s.fbOut row col
  | .dt => t.dt = s.dt
  | .st => t.st = s.st
  | .wait => t.wait = s.wait
  | .drew => t.drew = s.drew
  | .halt => t.halt = s.halt
  | .event => t.event = s.event
  | .env => t.ports = s.ports ∧ t.schedule = s.schedule ∧ t.tickNo = s.tickNo
  | .config => t.config = s.config

/-- Every part but the listed ones is the same. -/
def UnchangedBut (ps : List Part) (s t : State) : Prop := ∀ p, p ∉ ps → p.same s t

/-- Every register but the listed ones is the same. -/
def RegsUnchangedBut (xs : List RegIx) (s t : State) : Prop := ∀ j, j ∉ xs → t.reg j = s.reg j

/-- The instruction completes with the value `n` in `V[x]` and `PC` at the next instruction, and changes nothing
else. -/
def CompletesWriting (i : Instr) (s : State) (x : RegIx) (n : Nat) : Prop :=
  ∃ t, exec i s = .next t ∧ (t.reg x).toNat = n ∧ t.pc = s.pc + 2 ∧ RegsUnchangedBut [x] s t ∧
    UnchangedBut [.regs, .pc] s t

/-- The address `a` names one of the `n` cells from `base` on (R52, R156). -/
def InCells (base n a : Nat) : Prop := ∃ k, k < n ∧ wrapAddr a = wrapAddr (base + k)

/-! ## What each operation writes: table S1 (R37) -/

/-- What an unrecognized opcode writes (R186): the event, and `PC` under `advance2`. -/
def unrecognizedParts (p : InvalidPcPolicy) : List Part :=
  match p with
  | .stay => [.event]
  | .advance2 => [.event, .pc]

/-- What SYS writes (R185). -/
def sysParts (p : SysPolicy) (q : InvalidPcPolicy) : List Part :=
  match p with
  | .asInvalid => unrecognizedParts q
  | .ignore => [.pc]

/-- The writes column of table S1, with those of SYS and INVALID (R185, R186) and the halt latch of CALL and
RET (R142, R143). -/
def tableS1Parts (c : Config) : Instr → List Part
  | .cls => [.fb, .drew, .pc]
  | .ret | .call _ => [.stack, .pc, .halt]
  | .sys _ => sysParts c.sys c.invalidPc
  | .invalid _ => unrecognizedParts c.invalidPc
  | .jp _ | .jpV0 _ => [.pc]
  | .seImm _ _ | .sneImm _ _ | .seReg _ _ _ | .sneReg _ _ _ | .skp _ | .sknp _ => [.pc]
  | .ldImm _ _ | .addImm _ _ | .ldReg _ _ | .orReg _ _ | .andReg _ _ | .xorReg _ _ => [.regs, .pc]
  | .addReg _ _ | .subReg _ _ | .subn _ _ | .shr _ _ | .shl _ _ => [.regs, .pc]
  | .ldI _ | .addI _ | .ldF _ => [.index, .pc]
  | .rnd _ _ | .ldVxDt _ | .ldVxMem _ => [.regs, .pc]
  | .drw _ _ _ => [.fb, .regs, .drew, .pc]
  | .ldVxK _ => [.wait, .pc]
  | .ldDtVx _ => [.dt, .pc]
  | .ldStVx _ => [.st, .event, .pc]
  | .ldB _ | .ldMemVx _ => [.mem, .pc]

/-- The registers among the writes of table S1. -/
def tableS1Regs : Instr → List RegIx
  | .ldImm x _ | .addImm x _ | .ldReg x _ | .orReg x _ | .andReg x _ | .xorReg x _ | .rnd x _
  | .ldVxDt x => [x]
  | .addReg x _ | .subReg x _ | .subn x _ | .shr x _ | .shl x _ => [x, vf]
  | .drw _ _ _ => [vf]
  | .ldVxMem x => (List.range (x.val + 1)).map (Fin.ofNat 16)
  | .cls | .ret | .sys _ | .jp _ | .call _ | .seImm _ _ | .sneImm _ _ | .seReg _ _ _
  | .sneReg _ _ _ | .ldI _ | .jpV0 _ | .skp _ | .sknp _ | .ldVxK _ | .ldDtVx _ | .ldStVx _ | .addI _
  | .ldF _ | .ldB _ | .ldMemVx _ | .invalid _ => []

/-- The operations that move `PC` to a place of their own choosing (R25: "jump/call/return"). -/
def setsPc : Instr → Bool
  | .jp _ | .jpV0 _ | .call _ | .ret => true
  | .cls | .sys _ | .seImm _ _ | .sneImm _ _ | .seReg _ _ _ | .ldImm _ _ | .addImm _ _ | .ldReg _ _
  | .orReg _ _ | .andReg _ _ | .xorReg _ _ | .addReg _ _ | .subReg _ _ | .shr _ _ | .subn _ _
  | .shl _ _ | .sneReg _ _ _ | .ldI _ | .rnd _ _ | .drw _ _ _ | .skp _ | .sknp _ | .ldVxDt _
  | .ldVxK _ | .ldDtVx _ | .ldStVx _ | .addI _ | .ldF _ | .ldB _ | .ldMemVx _ | .ldVxMem _
  | .invalid _ => false

/-- The conditional skips (R149, R173, R174). -/
def isSkip : Instr → Bool
  | .seImm _ _ | .sneImm _ _ | .seReg _ _ _ | .sneReg _ _ _ | .skp _ | .sknp _ => true
  | .cls | .ret | .sys _ | .jp _ | .call _ | .ldImm _ _ | .addImm _ _ | .ldReg _ _ | .orReg _ _
  | .andReg _ _ | .xorReg _ _ | .addReg _ _ | .subReg _ _ | .shr _ _ | .subn _ _ | .shl _ _ | .ldI _
  | .jpV0 _ | .rnd _ _ | .drw _ _ _ | .ldVxDt _ | .ldVxK _ | .ldDtVx _ | .ldStVx _ | .addI _ | .ldF _
  | .ldB _ | .ldMemVx _ | .ldVxMem _ | .invalid _ => false

/-- The words whose execution reports an unrecognized opcode (R185, R186). -/
def isReported : Instr → Bool
  | .sys _ | .invalid _ => true
  | .cls | .ret | .jp _ | .call _ | .seImm _ _ | .sneImm _ _ | .seReg _ _ _ | .ldImm _ _ | .addImm _ _
  | .ldReg _ _ | .orReg _ _ | .andReg _ _ | .xorReg _ _ | .addReg _ _ | .subReg _ _ | .shr _ _
  | .subn _ _ | .shl _ _ | .sneReg _ _ _ | .ldI _ | .jpV0 _ | .rnd _ _ | .drw _ _ _ | .skp _ | .sknp _
  | .ldVxDt _ | .ldVxK _ | .ldDtVx _ | .ldStVx _ | .addI _ | .ldF _ | .ldB _ | .ldMemVx _
  | .ldVxMem _ => false

/-! ## The invariant of a run -/

/-- A latched fault is the one the instruction at `PC` raised there (R190, R193, R194). -/
def State.haltCoherent (s : State) : Prop :=
  match s.halt with
  | none => True
  | some ⟨.stackUnderflow, p⟩ => p = s.pc ∧ s.sp = 0 ∧ s.fetched = .ret
  | some ⟨.stackOverflow, p⟩ =>
    p = s.pc ∧ s.sp = s.config.stackDepth ∧ ∃ nnn, s.fetched = .call nnn

/-- A pending wait is the one of the LD Vx,K just before `PC` (R175), and no fault is latched. -/
def State.waitCoherent (s : State) : Prop :=
  ∀ x, s.wait = some x →
    s.halt = none ∧ (s.setPc (s.pc - 2)).fetched = .ldVxK x

/-- What holds of every state a run reaches. -/
structure State.Inv (s : State) : Prop where
  memory : Memory.wf s.config s.mem
  stackBound : s.sp ≤ s.config.stackDepth
  haltLatch : s.haltCoherent
  waitState : s.waitCoherent

/-! ## Parameters, running and not making progress -/

/-- The fetch of a tick is allowed: always, under the default `ADDR_WRAP` (R52, D8). -/
def State.fetchAllowed (s : State) : Bool := accessAllowed s.config.addrWrap s.pc.toNat 2

/-- The access of an operation to the `n` bytes from `I` on is allowed (R52, D8). -/
def State.dataAllowed (s : State) (n : Nat) : Bool :=
  accessAllowed s.config.addrWrap s.dataAddr n

/-- The tick executes: no fault latched and no wait pending (R103, R178). -/
def State.running (s : State) : Prop := s.halt = none ∧ s.wait = none

/-- The situations a model must tell apart (R112). What counts as the end of a run the spec leaves to the
model; this model defines none, and only tells the situations apart. DESIGN CHOICE, log 40. -/
inductive Situation where
  /-- `HALT != none`: never a successful end. -/
  | faulted
  /-- `WAIT.valid = 1`: suspended until a KeyPress. -/
  | waiting
  /-- At an INVALID or SYS word that does not advance `PC`. -/
  | stuckOnWord
  /-- At a jump to its own address. -/
  | parked
  /-- None of these. -/
  | progressing
  deriving DecidableEq, Repr

/-- The situation of a running machine at the instruction `i`. -/
def State.situationAt (s : State) : Instr → Situation
  | .invalid _ => if s.config.invalidPc = .stay then .stuckOnWord else .progressing
  | .sys _ =>
    if s.config.sys = .asInvalid ∧ s.config.invalidPc = .stay then .stuckOnWord
    else .progressing
  | .jp nnn => if zextAddr nnn = s.pc then .parked else .progressing
  | .cls | .ret | .call _ | .seImm _ _ | .sneImm _ _ | .seReg _ _ _ | .ldImm _ _ | .addImm _ _
  | .ldReg _ _ | .orReg _ _ | .andReg _ _ | .xorReg _ _ | .addReg _ _ | .subReg _ _ | .shr _ _
  | .subn _ _ | .shl _ _ | .sneReg _ _ _ | .ldI _ | .jpV0 _ | .rnd _ _ | .drw _ _ _ | .skp _
  | .sknp _ | .ldVxDt _ | .ldVxK _ | .ldDtVx _ | .ldStVx _ | .addI _ | .ldF _ | .ldB _
  | .ldMemVx _ | .ldVxMem _ => .progressing

/-- The situation of the machine (R112). None of them ends a run: every one has a next step (DESIGN CHOICE,
log 40). -/
def State.situation (s : State) : Situation :=
  if s.halt.isSome then .faulted
  else if s.wait.isSome then .waiting
  else s.situationAt s.fetched

/-! ## The sprite as a set of cells -/

/-- The sprite row that lands on framebuffer row `row` when row 0 lands on row `oy mod 32` (R162). -/
def rowOffset (oy : Nat) (row : Fin 32) : Nat := (row.val + 32 - oy % 32) % 32

/-- The sprite column that lands on framebuffer column `col` when column 0 lands on column `ox mod 64`
(R162). -/
def colOffset (ox : Nat) (col : Fin 64) : Nat := (col.val + 64 - ox % 64) % 64

/-- Whether the sprite of DRW Vx, Vy, n has a set bit over a cell (R161, R162, R167). -/
def State.spriteBit (s : State) (x y : RegIx) (n : Nibble) (row : Fin 32) (col : Fin 64) : Bool :=
  rowOffset (s.reg y).toNat row < n.toNat && colOffset (s.reg x).toNat col < 8 &&
    (s.spriteRow (rowOffset (s.reg y).toNat row)).getLsbD (7 - colOffset (s.reg x).toNat col)

end Sys2Proof.Machine
end

