-- ==== Sys2Proof/Certificates/Slice0/Obligations.lean ====
section
/-! DEFINITION. The statements for the provers, in the order of OBLIGATIONS.json. Each formalises the
numbered rules its docstring names. "The spec's choice" marks a clause that the spec itself calls its own
decision (D<n> of 92_eei_decisions.md), its own inference, or general knowledge (K<n>). A state carries
the machine's parameters (R8, table P1; log 42): a statement over every state is one over every value of
every parameter, but for those its hypotheses fix. -/

open Sys2Proof Sys2Proof.Machine

/-! ## Encoding and decoding -/

/-- Every well-formed instruction is read back from its word and from its bytes, with every operand, under
either `LOW_NIBBLE_5_9` policy (R74, R84, R85; the patterns are K1). -/
def Obligations.DecodeOfEncode : Prop :=
  (∀ (p : LowNibblePolicy) (i : Instr), i.wfWith p = true → decodeWordWith p (encode i) = i) ∧
  ∀ (i : Instr) (rest : List Byte), i.wf = true → decode (encodeBytes i ++ rest) = .ok (i, rest)

/-- Every word is the word of the well-formed instruction it decodes to, under either policy: decoding is
total, loses no bit and gives two words different instructions (R74). -/
def Obligations.EncodeOfDecode : Prop :=
  ∀ (p : LowNibblePolicy) (w : Word),
    encode (decodeWordWith p w) = w ∧ (decodeWordWith p w).wfWith p = true

/-- The words that decode to INVALID are exactly those R82 lists, and INVALID carries the word; the words
that decode to SYS are exactly the other words below 0x1000 that R77 says. -/
def Obligations.InvalidAndSysWords : Prop :=
  ∀ w : Word,
    (decodeWord w = .invalid w ↔
      (w.toNat / 4096 = 8 ∧ w.toNat % 16 ∈ [8, 9, 10, 11, 12, 13, 15]) ∨
      (w.toNat / 4096 = 14 ∧ w.toNat % 256 ∉ [0x9E, 0xA1]) ∨
      (w.toNat / 4096 = 15 ∧
        w.toNat % 256 ∉ [0x07, 0x0A, 0x15, 0x18, 0x1E, 0x29, 0x33, 0x55, 0x65])) ∧
    (∀ u : Word, decodeWord w = .invalid u → u = w) ∧
    ((∃ nnn, decodeWord w = .sys nnn) ↔ w.toNat < 4096 ∧ w.toNat ≠ 0xE0 ∧ w.toNat ≠ 0xEE)

/-- The decoder, written as the dispatch of R75 to R81, agrees with the first matching row of the opcode
table (R88). -/
def Obligations.DecoderAgreesWithOpcodeTable : Prop :=
  ∀ w : Word, (tableRow w).map (·.mnemonic) = some (decodeWord w).mnemonic

/-- Apart from CLS and RET against SYS, and INVALID against everything, no word selects two rows of the
opcode table (R88). -/
def Obligations.OpcodeTableRowsDisjoint : Prop :=
  ∀ (w : Word) (r q : OpRow), r ∈ opcodeTable → q ∈ opcodeTable → r.matches w = true →
    q.matches w = true →
      r = q ∨ r.mnemonic = "INVALID" ∨ q.mnemonic = "INVALID" ∨
      (r.mnemonic = "SYS_nnn" ∧ q.mnemonic ∈ ["CLS", "RET"]) ∨
      (q.mnemonic = "SYS_nnn" ∧ r.mnemonic ∈ ["CLS", "RET"])

/-- Words written out from table E2, one of each family, decode to the instruction they stand for. -/
def Obligations.TableWordsDecode : Prop :=
  decodeWord 0x00E0 = .cls ∧ decodeWord 0x00EE = .ret ∧ decodeWord 0x01E0 = .sys 0x1E0 ∧
  decodeWord 0x1234 = .jp 0x234 ∧ decodeWord 0x3A7F = .seImm 10 0x7F ∧
  decodeWord 0x512F = .seReg 1 2 0xF ∧ decodeWord 0x6A2F = .ldImm 10 0x2F ∧
  decodeWord 0x8125 = .subReg 1 2 ∧ decodeWord 0x8127 = .subn 1 2 ∧ decodeWord 0x812E = .shl 1 2 ∧
  decodeWord 0xB300 = .jpV0 0x300 ∧ decodeWord 0xC20F = .rnd 2 0x0F ∧
  decodeWord 0xD125 = .drw 1 2 5 ∧ decodeWord 0xE4A1 = .sknp 4 ∧ decodeWord 0xF30A = .ldVxK 3 ∧
  decodeWord 0xF155 = .ldMemVx 1 ∧ decodeWord 0xF265 = .ldVxMem 2 ∧
  decodeWord 0x8128 = .invalid 0x8128 ∧ decodeWord 0xE49F = .invalid 0xE49F

/-- R53: the fetched word has the byte at `PC` high and the byte at `PC + 1` low, each read at its address
modulo 4096, for every `PC`, even or odd. -/
def Obligations.FetchIsBigEndianAndWraps : Prop :=
  ∀ s : State,
    s.fetchWord.toNat =
      256 * (Memory.read s.config s.mem (s.pc.toNat % 4096)).toNat +
        (Memory.read s.config s.mem ((s.pc.toNat + 1) % 4096)).toNat

/-! ## Steps -/

/-- When the host's next step is a tick, no fault is latched, no wait is pending, the fetch is allowed (always,
under the default `ADDR_WRAP`) and the bytes at `PC` are those of a well-formed instruction, the step is
that instruction executed after the tick's timer advance (R103, R106), `ST` on its own due input where
`TIMER_DUE_SHARED` is false (D2); for a listed tick and for the free tick of an empty schedule (the
model's choice, log 2). -/
def Obligations.StepRunsDecodedInstruction : Prop :=
  ∀ (s : State) (i : Instr), s.halt = none → s.wait = none → s.fetchAllowed = true →
    i.wfWith s.config.lowNibble59 = true →
    [s.readByte s.pc.toNat, s.readByte (s.pc.toNat + 1)] = encodeBytes i →
      (∀ (inputs : TickIn) (rest : List HostStep), s.schedule = .tick inputs :: rest →
        step s = exec i
          { s with
            schedule := rest, ports := inputs, event := none,
            dt := if inputs.timerDue = true ∧ s.dt ≠ 0 then s.dt - 1 else s.dt,
            st := if (if s.config.timerDueShared then inputs.timerDue else inputs.stDue) = true ∧
              s.st ≠ 0 then s.st - 1 else s.st }) ∧
      (s.schedule = [] →
        step s = exec i
          { s with
            tickNo := s.tickNo + 1, ports := freeTickIn s.tickNo, event := none,
            dt := if Config.freeTimerDue s.tickNo = true ∧ s.dt ≠ 0 then s.dt - 1 else s.dt,
            st := if (if s.config.timerDueShared then Config.freeTimerDue s.tickNo
                else Config.freeStDue s.tickNo) = true ∧ s.st ≠ 0 then s.st - 1 else s.st })

/-- While a fault is latched every step but Reset leaves the whole state as it is, timers included, and
emits nothing (R33, R194, R199; the spec's choice, D29). -/
def Obligations.HaltedStepsChangeNothing : Prop :=
  ∀ s : State, s.halt ≠ none → (∀ rom, (nextHostStep s).1 ≠ .reset rom) →
    ∃ t, step s = .next t ∧ UnchangedBut [.event, .env] s t ∧ t.event = none ∧
      t.schedule = s.schedule.tail

/-- A tick while a wait is pending advances the timers, each on its due input, and does nothing else (R105; the
spec's choice, D2, D27). -/
def Obligations.WaitingTickMovesOnlyTimers : Prop :=
  ∀ (s : State) (inputs : TickIn) (rest : List HostStep), s.halt = none → s.wait ≠ none →
    s.fetchAllowed = true → s.schedule = .tick inputs :: rest →
      ∃ t, step s = .next t ∧ UnchangedBut [.dt, .st, .event, .env] s t ∧ t.event = none ∧
        t.dt.toNat = s.dt.toNat - (if inputs.timerDue then 1 else 0) ∧
        t.st.toNat = s.st.toNat -
          (if (if s.config.timerDueShared then inputs.timerDue else inputs.stDue) then 1 else 0)

/-- However many ticks and acknowledgements come, a pending wait stays pending and `PC`, the registers,
`I`, memory, the stack and the framebuffer stay as they are (R105, R178; the spec's choice, D26,
D27). Steps beyond the listed ones are ticks, which is the model's choice (log 2). -/
def Obligations.WaitPersistsUntilKeyPress : Prop :=
  ∀ (n : Nat) (s : State), s.halt = none → s.wait ≠ none → s.fetchAllowed = true →
    (∀ h ∈ s.schedule.take n, h = .renderAck ∨ ∃ inputs, h = .tick inputs) →
      ∃ t, Host.Core.run core n s = .next t ∧ UnchangedBut [.dt, .st, .drew, .event, .env] s t

/-- KeyPress (R107): it resolves a pending wait by writing the key's code into the pending register, and
without a pending wait it changes nothing; `PC` stays (the spec's choice, D26). -/
def Obligations.KeyPressResolvesWait : Prop :=
  ∀ (s : State) (k : KeyCode) (rest : List HostStep), s.halt = none →
    s.schedule = .keyPress k :: rest →
      (∀ x, s.wait = some x →
        ∃ t, step s = .next t ∧ (t.reg x).toNat = k.toNat ∧ t.wait = none ∧
          RegsUnchangedBut [x] s t ∧ UnchangedBut [.regs, .wait, .event, .env] s t) ∧
      (s.wait = none → ∃ t, step s = .next t ∧ UnchangedBut [.event, .env] s t)

/-- RenderAck (R108) clears `DREW` and nothing else (the spec's choice, D25). -/
def Obligations.RenderAckClearsDrew : Prop :=
  ∀ (s : State) (rest : List HostStep), s.halt = none → s.schedule = .renderAck :: rest →
    ∃ t, step s = .next t ∧ t.drew = false ∧ UnchangedBut [.drew, .event, .env] s t

/-- Reset (R220, R36): from any state, a halted one included, memory is the font at `FONT_BASE`, the image at
`PROG_BASE` and zeros, and everything else has its value of table S2 (values the spec calls its own
choice, D3 to D6). For every valid value of the parameters (R51, R221); with the defaults the font is at
0, the image at 0x200 and the longest image has 3584 bytes. -/
def Obligations.ResetLoadsProgram : Prop :=
  ∀ (s : State) (rom : List Byte) (rest : List HostStep), s.config.valid = true →
    s.schedule = .reset rom :: rest → s.config.progBase + rom.length ≤ 4096 →
      ∃ t, step s = .next t ∧
        (∀ j, (h : j < rom.length) → t.readByte (s.config.progBase + j) = rom[j]) ∧
        (∀ j, j < 80 → t.readByte (s.config.fontBase + j) = s.config.fontData.getD j 0) ∧
        (∀ a, a < 4096 → (a < s.config.fontBase ∨ s.config.fontBase + 80 ≤ a) →
          (a < s.config.progBase ∨ s.config.progBase + rom.length ≤ a) → t.readByte a = 0) ∧
        (∀ x, t.reg x = 0) ∧ t.i = 0 ∧ t.pc.toNat = s.config.progBase ∧ t.sp = 0 ∧
        (∀ row col, t.fbOut row col = false) ∧ t.dt = 0 ∧ t.st = 0 ∧ t.wait = none ∧
        t.drew = false ∧ t.halt = none ∧ t.schedule = rest ∧ t.config = s.config

/-- The state after reset is that of table S2 with an empty image, its machine that of the default parameters of
table P1 (R8; values the spec calls its own choice). -/
def Obligations.ResetStateIsTableS2 : Prop :=
  (∀ x, State.reset.reg x = 0) ∧ State.reset.i = 0 ∧ State.reset.pc = 0x200 ∧
  State.reset.sp = 0 ∧ (∀ row col, State.reset.fbOut row col = false) ∧ State.reset.dt = 0 ∧
  State.reset.st = 0 ∧ State.reset.wait = none ∧ State.reset.drew = false ∧
  State.reset.halt = none ∧ State.reset.mem = [] ∧
  (∀ a, a < 80 → State.reset.readByte a = Config.current.fontData.getD a 0) ∧
  (∀ a, 80 ≤ a → a < 4096 → State.reset.readByte a = 0) ∧
  State.reset.config.fontBase = 0 ∧ State.reset.config.fontData.length = 80 ∧
  State.reset.config.progBase = 0x200 ∧ State.reset.config.stackDepth = 16 ∧
  State.reset.config.addrWrap = .modulo ∧ State.reset.config.invalidPc = .stay ∧
  State.reset.config.sys = .asInvalid ∧ State.reset.config.lowNibble59 = .ignored ∧
  State.reset.config.keyIndex = .low4 ∧ State.reset.config.fontDigit = .low4 ∧
  State.reset.config.toneRounding = .floor ∧ State.reset.config.vfOrderArith = .flagLast ∧
  State.reset.config.vfOrderShift = .sequential ∧ State.reset.config.timerDueShared = true

/-- In every tick of a machine with no latched fault each timer goes down by one when its due input is 1 and it
is not zero, and otherwise keeps its value, unless the tick executes LD DT,Vx or LD ST,Vx (R200, R201);
one due input for both, or two, as `TIMER_DUE_SHARED` says (the spec's choice, D2). -/
def Obligations.TickAdvancesTimers : Prop :=
  ∀ (s t : State) (inputs : TickIn) (rest : List HostStep), s.halt = none →
    s.schedule = .tick inputs :: rest → step s = .next t →
      ((s.wait ≠ none ∨ ∀ x, s.fetched ≠ .ldDtVx x) →
        t.dt.toNat = if inputs.timerDue then s.dt.toNat - 1 else s.dt.toNat) ∧
      ((s.wait ≠ none ∨ ∀ x, s.fetched ≠ .ldStVx x) →
        t.st.toNat = if (if s.config.timerDueShared then inputs.timerDue else inputs.stDue)
          then s.st.toNat - 1 else s.st.toNat)

/-! ## Register load and arithmetic -/

/-- R120: LD Vx, kk. -/
def Obligations.LoadImmediate : Prop :=
  ∀ (s : State) (x : RegIx) (kk : Byte), ∃ t, exec (.ldImm x kk) s = .next t ∧ t.reg x = kk ∧
    t.pc.toNat = (s.pc.toNat + 2) % 65536 ∧ RegsUnchangedBut [x] s t ∧
    UnchangedBut [.regs, .pc] s t

/-- R121: ADD Vx, kk wraps modulo 256 and writes no flag. -/
def Obligations.AddImmediate : Prop :=
  ∀ (s : State) (x : RegIx) (kk : Byte), ∃ t, exec (.addImm x kk) s = .next t ∧
    (t.reg x).toNat = ((s.reg x).toNat + kk.toNat) % 256 ∧
    t.pc.toNat = (s.pc.toNat + 2) % 65536 ∧ RegsUnchangedBut [x] s t ∧
    UnchangedBut [.regs, .pc] s t

/-- R122: LD Vx, Vy (an operation the spec supplies from general knowledge, D11, K3). -/
def Obligations.CopyRegister : Prop :=
  ∀ (s : State) (x y : RegIx), ∃ t, exec (.ldReg x y) s = .next t ∧ t.reg x = s.reg y ∧
    t.pc = s.pc + 2 ∧ RegsUnchangedBut [x] s t ∧ UnchangedBut [.regs, .pc] s t

/-- R123: ADD Vx, Vy with `x` other than 15; the case `x = 15` is FlagWrittenLastToVf. -/
def Obligations.AddRegisters : Prop :=
  ∀ (s : State) (x y : RegIx), x ≠ 15 → ∃ t, exec (.addReg x y) s = .next t ∧
    (t.reg x).toNat = ((s.reg x).toNat + (s.reg y).toNat) % 256 ∧
    t.reg 15 = (if 255 < (s.reg x).toNat + (s.reg y).toNat then 1 else 0) ∧
    t.pc.toNat = (s.pc.toNat + 2) % 65536 ∧ RegsUnchangedBut [x, 15] s t ∧
    UnchangedBut [.regs, .pc] s t

/-- R124: SUB Vx, Vy with `x` other than 15; the case `x = 15` is FlagWrittenLastToVf. -/
def Obligations.Subtract : Prop :=
  ∀ (s : State) (x y : RegIx), x ≠ 15 → ∃ t, exec (.subReg x y) s = .next t ∧
    ((t.reg x).toNat : Int) = ((s.reg x).toNat - (s.reg y).toNat : Int) % 256 ∧
    t.reg 15 = (if (s.reg y).toNat ≤ (s.reg x).toNat then 1 else 0) ∧
    t.pc.toNat = (s.pc.toNat + 2) % 65536 ∧ RegsUnchangedBut [x, 15] s t ∧
    UnchangedBut [.regs, .pc] s t

/-- R125: SUBN Vx, Vy with `x` other than 15; the case `x = 15` is FlagWrittenLastToVf. -/
def Obligations.SubtractReversed : Prop :=
  ∀ (s : State) (x y : RegIx), x ≠ 15 → ∃ t, exec (.subn x y) s = .next t ∧
    ((t.reg x).toNat : Int) = ((s.reg y).toNat - (s.reg x).toNat : Int) % 256 ∧
    t.reg 15 = (if (s.reg x).toNat ≤ (s.reg y).toNat then 1 else 0) ∧
    t.pc.toNat = (s.pc.toNat + 2) % 65536 ∧ RegsUnchangedBut [x, 15] s t ∧
    UnchangedBut [.regs, .pc] s t

/-- ADD, SUB and SUBN with `x = 15` under the default `VF_DEST_ORDER_ARITH`: both operands are read first and
`VF` ends as the flag, the result being lost (R127, the spec's choice, D14). The alternative is in
ParameterAlternatives. -/
def Obligations.FlagWrittenLastToVf : Prop :=
  ∀ (s : State) (y : RegIx), s.config.vfOrderArith = .flagLast →
    (∃ t, exec (.addReg 15 y) s = .next t ∧ t.pc = s.pc + 2 ∧
      t.reg 15 = (if 255 < (s.reg 15).toNat + (s.reg y).toNat then 1 else 0) ∧
      RegsUnchangedBut [15] s t ∧ UnchangedBut [.regs, .pc] s t) ∧
    (∃ t, exec (.subReg 15 y) s = .next t ∧ t.pc = s.pc + 2 ∧
      t.reg 15 = (if (s.reg y).toNat ≤ (s.reg 15).toNat then 1 else 0) ∧
      RegsUnchangedBut [15] s t ∧ UnchangedBut [.regs, .pc] s t) ∧
    ∃ t, exec (.subn 15 y) s = .next t ∧ t.pc = s.pc + 2 ∧
      t.reg 15 = (if (s.reg 15).toNat ≤ (s.reg y).toNat then 1 else 0) ∧
      RegsUnchangedBut [15] s t ∧ UnchangedBut [.regs, .pc] s t

/-! ## Bitwise operations and shifts -/

/-- R130, R131, R132: OR, AND and XOR bit by bit into `V[x]`, no other register written (that `VF` is not
a flag here is R136, the spec's choice, D17). -/
def Obligations.LogicOperations : Prop :=
  ∀ (s : State) (x y : RegIx),
    (∃ t, exec (.orReg x y) s = .next t ∧ t.pc = s.pc + 2 ∧
      (∀ j, (t.reg x).getLsbD j = ((s.reg x).getLsbD j || (s.reg y).getLsbD j)) ∧
      RegsUnchangedBut [x] s t ∧ UnchangedBut [.regs, .pc] s t) ∧
    (∃ t, exec (.andReg x y) s = .next t ∧ t.pc = s.pc + 2 ∧
      (∀ j, (t.reg x).getLsbD j = ((s.reg x).getLsbD j && (s.reg y).getLsbD j)) ∧
      RegsUnchangedBut [x] s t ∧ UnchangedBut [.regs, .pc] s t) ∧
    ∃ t, exec (.xorReg x y) s = .next t ∧ t.pc = s.pc + 2 ∧
      (∀ j, (t.reg x).getLsbD j = ((s.reg x).getLsbD j ^^ (s.reg y).getLsbD j)) ∧
      RegsUnchangedBut [x] s t ∧ UnchangedBut [.regs, .pc] s t

/-- R133, R134: SHR and SHL with `x` other than 15 shift `V[x]` in place, put the bit shifted out into `VF`
and neither read nor write `V[y]` (R137, the spec's choice, D16). The case `x = 15` is ShiftsOfVf. -/
def Obligations.Shifts : Prop :=
  ∀ (s : State) (x y : RegIx), x ≠ 15 →
    (∃ t, exec (.shr x y) s = .next t ∧ t.pc = s.pc + 2 ∧
      (t.reg x).toNat = (s.reg x).toNat / 2 ∧ (t.reg 15).toNat = (s.reg x).toNat % 2 ∧
      RegsUnchangedBut [x, 15] s t ∧ UnchangedBut [.regs, .pc] s t) ∧
    ∃ t, exec (.shl x y) s = .next t ∧ t.pc = s.pc + 2 ∧
      (t.reg x).toNat = 2 * (s.reg x).toNat % 256 ∧ (t.reg 15).toNat = (s.reg x).toNat / 128 ∧
      RegsUnchangedBut [x, 15] s t ∧ UnchangedBut [.regs, .pc] s t

/-- R135: under the default `VF_DEST_ORDER_SHIFT`, SHR VF leaves 0, SHL VF leaves twice the old bit 7 (the
spec's choice, D15). The alternatives are in ParameterAlternatives. -/
def Obligations.ShiftsOfVf : Prop :=
  ∀ (s : State) (y : RegIx), s.config.vfOrderShift = .sequential →
    (∃ t, exec (.shr 15 y) s = .next t ∧ t.pc = s.pc + 2 ∧ (t.reg 15).toNat = 0 ∧
      RegsUnchangedBut [15] s t ∧ UnchangedBut [.regs, .pc] s t) ∧
    ∃ t, exec (.shl 15 y) s = .next t ∧ t.pc = s.pc + 2 ∧
      (t.reg 15).toNat = 2 * ((s.reg 15).toNat / 128) ∧
      RegsUnchangedBut [15] s t ∧ UnchangedBut [.regs, .pc] s t

/-! ## Control flow -/

/-- R140, R141: JP nnn and JP V0, nnn; the sum of the second never wraps. -/
def Obligations.Jumps : Prop :=
  ∀ (s : State) (nnn : Addr12),
    (∃ t, exec (.jp nnn) s = .next t ∧ t.pc.toNat = nnn.toNat ∧ UnchangedBut [.pc] s t) ∧
    ∃ t, exec (.jpV0 nnn) s = .next t ∧ t.pc.toNat = nnn.toNat + (s.reg 0).toNat ∧
      UnchangedBut [.pc] s t

/-- R142: CALL with room on the stack, whatever its depth, pushes the address after it and jumps (a bounded
depth, by default 16, and what is pushed are the spec's choice, D7, D22). -/
def Obligations.CallPushesAndJumps : Prop :=
  ∀ (s : State) (nnn : Addr12), s.sp < s.config.stackDepth → ∃ t, exec (.call nnn) s = .next t ∧
    t.sp = s.sp + 1 ∧ t.stackEntry s.sp = some (s.pc + 2) ∧
    (∀ k, k < s.sp → t.stackEntry k = s.stackEntry k) ∧ t.pc.toNat = nnn.toNat ∧
    UnchangedBut [.stack, .pc] s t

/-- R143: RET pops the newest entry into `PC` (what CALL pushed is the spec's choice, D22). -/
def Obligations.ReturnPops : Prop :=
  ∀ s : State, 0 < s.sp → ∃ t, exec .ret s = .next t ∧ t.sp = s.sp - 1 ∧
    s.stackEntry (s.sp - 1) = some t.pc ∧ (∀ k, k < t.sp → t.stackEntry k = s.stackEntry k) ∧
    UnchangedBut [.stack, .pc] s t

/-- R142, R143, R191 to R194: CALL on a full stack and RET on an empty one latch their fault with their own
`PC` and change nothing else, `PC` included (the depth, the first fault and the latch are the spec's
choice, D7, D29; a count above the depth, which no run reaches, is full too, log 9). -/
def Obligations.FatalFaultsLatchAndChangeNothing : Prop :=
  ∀ s : State,
    (∀ nnn : Addr12, s.config.stackDepth ≤ s.sp → ∃ t, exec (.call nnn) s = .next t ∧
      t.halt = some ⟨.stackOverflow, s.pc⟩ ∧ t.faultKind = 2 ∧ UnchangedBut [.halt] s t) ∧
    (s.sp = 0 → ∃ t, exec .ret s = .next t ∧
      t.halt = some ⟨.stackUnderflow, s.pc⟩ ∧ t.faultKind = 1 ∧ UnchangedBut [.halt] s t)

/-- CALL followed by RET comes back to the instruction after the CALL with everything else as it was (R142,
R143; 95_test_vectors.md S7). -/
def Obligations.CallThenReturnComesBack : Prop :=
  ∀ (s : State) (nnn : Addr12), s.sp < s.config.stackDepth → ∃ t u, exec (.call nnn) s = .next t ∧
    exec .ret t = .next u ∧ u.pc = s.pc + 2 ∧ UnchangedBut [.pc] s u

/-- R144 to R147, R149: SE and SNE, against an immediate and against a register (whatever the ignored low
nibble), move `PC` by 4 when their condition holds and by 2 otherwise, and write nothing else. -/
def Obligations.ConditionalSkips : Prop :=
  ∀ (s : State) (x y : RegIx) (kk : Byte) (z : Nibble),
    (∃ t, exec (.seImm x kk) s = .next t ∧
      t.pc.toNat = (s.pc.toNat + if s.reg x = kk then 4 else 2) % 65536 ∧
      UnchangedBut [.pc] s t) ∧
    (∃ t, exec (.sneImm x kk) s = .next t ∧
      t.pc.toNat = (s.pc.toNat + if s.reg x ≠ kk then 4 else 2) % 65536 ∧
      UnchangedBut [.pc] s t) ∧
    (∃ t, exec (.seReg x y z) s = .next t ∧
      t.pc.toNat = (s.pc.toNat + if s.reg x = s.reg y then 4 else 2) % 65536 ∧
      UnchangedBut [.pc] s t) ∧
    ∃ t, exec (.sneReg x y z) s = .next t ∧
      t.pc.toNat = (s.pc.toNat + if s.reg x ≠ s.reg y then 4 else 2) % 65536 ∧
      UnchangedBut [.pc] s t

/-- R173, R174: SKP and SKNP query the sampled `keys_held` at the low four bits of `V[x]`, for every value
under the default `KEY_INDEX_POLICY` and up to 15 under the other (R176 and the sampling are the spec's
choice, D18, D34). -/
def Obligations.SkipsOnKeys : Prop :=
  ∀ (s : State) (x : RegIx), s.config.keyIndex = .low4 ∨ (s.reg x).toNat ≤ 15 →
    (∃ t, exec (.skp x) s = .next t ∧
      t.pc = s.pc + (if s.ports.keysHeld.getLsbD ((s.reg x).toNat % 16) = true then 4 else 2) ∧
      UnchangedBut [.pc] s t) ∧
    ∃ t, exec (.sknp x) s = .next t ∧
      t.pc = s.pc + (if s.ports.keysHeld.getLsbD ((s.reg x).toNat % 16) = false then 4 else 2) ∧
      UnchangedBut [.pc] s t

/-! ## Memory and index register -/

/-- R150: LD I, nnn. -/
def Obligations.LoadIndex : Prop :=
  ∀ (s : State) (nnn : Addr12), ∃ t, exec (.ldI nnn) s = .next t ∧ t.i.toNat = nnn.toNat ∧
    t.pc.toNat = (s.pc.toNat + 2) % 65536 ∧ UnchangedBut [.index, .pc] s t

/-- R151, R155: ADD I, Vx modulo 65536 without a flag, and LD F, Vx to the glyph of the low four bits from
`FONT_BASE` on (by default 0), for every value under the default `FONT_DIGIT_POLICY` and up to 15 under
the other (the spec's choice, D4, D9, D19, D21). -/
def Obligations.IndexUpdates : Prop :=
  ∀ (s : State) (x : RegIx),
    (∃ t, exec (.addI x) s = .next t ∧ t.i.toNat = (s.i.toNat + (s.reg x).toNat) % 65536 ∧
      t.pc = s.pc + 2 ∧ UnchangedBut [.index, .pc] s t) ∧
    (s.config.fontDigit = .low4 ∨ (s.reg x).toNat ≤ 15 → ∃ t, exec (.ldF x) s = .next t ∧
      t.i.toNat = (s.config.fontBase + 5 * ((s.reg x).toNat % 16)) % 65536 ∧
      t.pc = s.pc + 2 ∧ UnchangedBut [.index, .pc] s t)

/-- R152: LD B, Vx stores hundreds, tens and units from `I` on and leaves every other cell and `I` alone
(`I` unchanged and the wrap of addresses are the spec's choice, D8, D20). Every access
is allowed under the default `ADDR_WRAP`; for the other see ParameterAlternatives. -/
def Obligations.StoreDecimalDigits : Prop :=
  ∀ (s : State) (x : RegIx), s.dataAllowed 3 = true → ∃ t, exec (.ldB x) s = .next t ∧
    t.pc = s.pc + 2 ∧
    UnchangedBut [.mem, .pc] s t ∧
    (∀ a, ¬ InCells s.dataAddr 3 a → t.readByte a = s.readByte a) ∧
    (Memory.wf s.config s.mem →
      (t.readByte s.dataAddr).toNat = (s.reg x).toNat / 100 ∧
      (t.readByte (s.dataAddr + 1)).toNat = (s.reg x).toNat / 10 % 10 ∧
      (t.readByte (s.dataAddr + 2)).toNat = (s.reg x).toNat % 10)

/-- R153: LD [I], Vx stores `V[0]` to `V[x]` from `I` on and leaves every other cell and `I` alone (`I`
unchanged and the wrap of addresses are the spec's choice, D8, D20). Every access
is allowed under the default `ADDR_WRAP`; for the other see ParameterAlternatives. -/
def Obligations.BulkStore : Prop :=
  ∀ (s : State) (x : RegIx), s.dataAllowed (x.val + 1) = true → ∃ t, exec (.ldMemVx x) s = .next t ∧
    t.pc = s.pc + 2 ∧
    UnchangedBut [.mem, .pc] s t ∧
    (∀ a, ¬ InCells s.dataAddr (x.val + 1) a → t.readByte a = s.readByte a) ∧
    (Memory.wf s.config s.mem →
      ∀ k : RegIx, k.val ≤ x.val → t.readByte (s.dataAddr + k.val) = s.reg k)

/-- R154: LD Vx, [I] loads `V[0]` to `V[x]` from the bytes from `I` on and leaves the other registers, memory
and `I` alone (`I` unchanged and the wrap of addresses are the spec's choice, D8, D20). Every access
is allowed under the default `ADDR_WRAP`; for the other see ParameterAlternatives. -/
def Obligations.BulkLoad : Prop :=
  ∀ (s : State) (x : RegIx), s.dataAllowed (x.val + 1) = true → ∃ t, exec (.ldVxMem x) s = .next t ∧
    t.pc = s.pc + 2 ∧
    UnchangedBut [.regs, .pc] s t ∧
    ∀ k : RegIx, t.reg k = if k.val ≤ x.val then s.readByte (s.dataAddr + k.val) else s.reg k

/-- A store over the next instruction is seen by the very next fetch (R61, the spec's choice, D38): after
LD [I], Vx with `x >= 1` and `I` at the next instruction, the next word is `V[0]` high and `V[1]`
low (R54). -/
def Obligations.StoreSeenByNextFetch : Prop :=
  ∀ (s : State) (x : RegIx), Memory.wf s.config s.mem → s.i = s.pc + 2 → 1 ≤ x.val →
    s.dataAllowed (x.val + 1) = true → ∃ t, exec (.ldMemVx x) s = .next t ∧
      t.fetchWord.toNat = 256 * (s.reg 0).toNat + (s.reg 1).toNat

/-! ## Display -/

/-- R160: CLS turns every cell off, sets `DREW` and touches nothing else (setting `DREW` is the spec's
choice, D24). -/
def Obligations.ClearScreen : Prop :=
  ∀ s : State, ∃ t, exec .cls s = .next t ∧ (∀ row col, t.fbOut row col = false) ∧
    t.drew = true ∧ t.pc = s.pc + 2 ∧ UnchangedBut [.fb, .drew, .pc] s t

/-- R161, R162, R163: DRW flips exactly the cells its set sprite bits lie over, wrapping on both axes, and
`VF` is 1 exactly when one of them was on; for every operand, 15 and `n = 0` included (those cases and the
wrap of sprite addresses are the spec's choice, D8, D23). The loops of the meaning against the sprite as a
set of cells. -/
def Obligations.DrawFlipsTheSpriteCells : Prop :=
  ∀ (s : State) (x y : RegIx) (n : Nibble), s.dataAllowed n.toNat = true →
    ∃ t, exec (.drw x y n) s = .next t ∧
    (∀ row col, t.fbOut row col = (s.fbOut row col ^^ s.spriteBit x y n row col)) ∧
    ((∃ row col, s.spriteBit x y n row col = true ∧ s.fbOut row col = true) → t.reg 15 = 1) ∧
    ((∀ row col, s.spriteBit x y n row col = true → s.fbOut row col = false) → t.reg 15 = 0) ∧
    t.drew = true ∧ t.pc = s.pc + 2 ∧ RegsUnchangedBut [15] s t ∧
    UnchangedBut [.fb, .regs, .drew, .pc] s t

/-- R168 (a) and (b): drawing the same sprite twice restores every cell, and on cells that were all off the
second flag tells whether the sprite has a set bit. `x` and `y` are not 15, which the first draw
overwrites (the spec's inference). -/
def Obligations.DrawTwiceRestores : Prop :=
  ∀ (s : State) (x y : RegIx) (n : Nibble), x ≠ 15 → y ≠ 15 → s.dataAllowed n.toNat = true →
    ∃ t u, exec (.drw x y n) s = .next t ∧ exec (.drw x y n) t = .next u ∧
      (∀ row col, u.fbOut row col = s.fbOut row col) ∧
      ((∀ row col, s.spriteBit x y n row col = true → s.fbOut row col = false) →
        (u.reg 15 = 1 ↔ ∃ row col, s.spriteBit x y n row col = true))

/-! ## Timers, keys and the random byte -/

/-- R170: LD Vx, DT reads `DT`, and in a whole tick it reads the value after that tick's timer advance. -/
def Obligations.ReadDelayTimer : Prop :=
  (∀ (s : State) (x : RegIx), ∃ t, exec (.ldVxDt x) s = .next t ∧ t.reg x = s.dt ∧
    t.pc.toNat = (s.pc.toNat + 2) % 65536 ∧ RegsUnchangedBut [x] s t ∧
    UnchangedBut [.regs, .pc] s t) ∧
  ∀ (s : State) (x : RegIx) (inputs : TickIn) (rest : List HostStep), s.halt = none →
    s.wait = none → s.fetchAllowed = true → s.fetched = .ldVxDt x → s.schedule = .tick inputs :: rest →
      ∃ t, step s = .next t ∧
        (t.reg x).toNat = if inputs.timerDue then s.dt.toNat - 1 else s.dt.toNat

/-- R171: LD DT, Vx. -/
def Obligations.WriteDelayTimer : Prop :=
  ∀ (s : State) (x : RegIx), ∃ t, exec (.ldDtVx x) s = .next t ∧ t.dt = s.reg x ∧
    t.pc.toNat = (s.pc.toNat + 2) % 65536 ∧ UnchangedBut [.dt, .pc] s t

/-- R172, R177: LD ST, Vx sets the timer and requests a tone of `floor(V[x] * 1000 / 60)` milliseconds, for
every value, under the default `TONE_ROUNDING` (rounding and the zero tone are the spec's choice, D28). -/
def Obligations.WriteSoundTimerRequestsTone : Prop :=
  ∀ (s : State) (x : RegIx), s.config.toneRounding = .floor → ∃ t ms, exec (.ldStVx x) s = .next t ∧
    t.st = s.reg x ∧
    t.toneRequest = some ms ∧ ms.toNat = (s.reg x).toNat * 1000 / 60 ∧ t.pc = s.pc + 2 ∧
    UnchangedBut [.st, .event, .pc] s t

/-- R175: LD Vx, K begins the wait on `x` with `PC` at the next instruction and writes no register (the
spec's choice, D26). -/
def Obligations.WaitForKeyBegins : Prop :=
  ∀ (s : State) (x : RegIx), ∃ t, exec (.ldVxK x) s = .next t ∧ t.wait = some x ∧
    t.pc = s.pc + 2 ∧ UnchangedBut [.wait, .pc] s t

/-- R180: RND Vx, kk stores the sampled `rand_byte` masked with `kk`, whatever the byte. -/
def Obligations.RandomByteMasked : Prop :=
  ∀ (s : State) (x : RegIx) (kk : Byte), ∃ t, exec (.rnd x kk) s = .next t ∧
    (∀ j, (t.reg x).getLsbD j = (s.ports.randByte.getLsbD j && kk.getLsbD j)) ∧
    t.pc.toNat = (s.pc.toNat + 2) % 65536 ∧ RegsUnchangedBut [x] s t ∧
    UnchangedBut [.regs, .pc] s t

/-! ## SYS, INVALID and the policies -/

/-- R185, R186, R190, R195: under the default `INVALID_PC_POLICY` INVALID reports its word and `PC` and changes
nothing, `PC` included, and SYS does the same under the default `SYS_POLICY` (the policies are the spec's
choice, D10, D11). The alternatives are in ParameterAlternatives. -/
def Obligations.UnrecognizedOpcodesReported : Prop :=
  ∀ s : State, s.config.invalidPc = .stay →
    (∀ w : Word, ∃ t, exec (.invalid w) s = .next t ∧ t.invalidOpcode = some (w, s.pc) ∧
      UnchangedBut [.event] s t) ∧
    (s.config.sys = .asInvalid → ∀ nnn : Addr12, ∃ t w, exec (.sys nnn) s = .next t ∧
      t.invalidOpcode = some (w, s.pc) ∧ w.toNat = nnn.toNat ∧ UnchangedBut [.event] s t)

/-- A machine with other values of the parameters of table P1 (R8; the spec's choice, D8, D10, D11, D12, D14,
D15, D18, D19, D28): an unrecognized opcode that moves `PC`, SYS ignored, the other orders of the two
flag writes, the low nibble of 5xy_ and 9xy_, the values above 15 that name no key and no digit, the
accesses above 4095, the other roundings. The other values of STACK_DEPTH, FONT_BASE, FONT_DATA,
PROG_BASE and TIMER_DUE_SHARED are in the statements about CALL, LD F, Reset and the timers. The model's
choice: that SKP and SKNP then stop by a fault (log 17) and LD F by a refusal (log 18), that an access
with a byte above 4095 is refused as a whole (log 21), and the two other roundings (log 20). -/
def Obligations.ParameterAlternatives : Prop :=
  (∀ (s : State) (w : Word), s.config.invalidPc = .advance2 → ∃ t, exec (.invalid w) s = .next t ∧
    t.invalidOpcode = some (w, s.pc) ∧ t.pc = s.pc + 2 ∧ UnchangedBut [.event, .pc] s t) ∧
  (∀ (s : State) (nnn : Addr12),
    (s.config.sys = .ignore → ∃ t, exec (.sys nnn) s = .next t ∧ t.pc = s.pc + 2 ∧
      UnchangedBut [.pc] s t) ∧
    (s.config.sys = .asInvalid → exec (.sys nnn) s = exec (.invalid (encode (.sys nnn))) s)) ∧
  (∀ (s : State) (y : RegIx), s.config.vfOrderArith = .resultLast →
    CompletesWriting (.addReg 15 y) s 15 (((s.reg 15).toNat + (s.reg y).toNat) % 256) ∧
    CompletesWriting (.subReg 15 y) s 15 ((256 + (s.reg 15).toNat - (s.reg y).toNat) % 256) ∧
    CompletesWriting (.subn 15 y) s 15 ((256 + (s.reg y).toNat - (s.reg 15).toNat) % 256)) ∧
  (∀ (s : State) (y : RegIx),
    (s.config.vfOrderShift = .flagLast →
      CompletesWriting (.shr 15 y) s 15 ((s.reg 15).toNat % 2) ∧
      CompletesWriting (.shl 15 y) s 15 ((s.reg 15).toNat / 128)) ∧
    (s.config.vfOrderShift = .resultLast →
      CompletesWriting (.shr 15 y) s 15 ((s.reg 15).toNat / 2) ∧
      CompletesWriting (.shl 15 y) s 15 (2 * (s.reg 15).toNat % 256))) ∧
  (∀ s : State, s.config.lowNibble59 = .mustBeZero → s.fetched =
    if (s.fetchWord.toNat / 4096 = 5 ∨ s.fetchWord.toNat / 4096 = 9) ∧ s.fetchWord.toNat % 16 ≠ 0
    then .invalid s.fetchWord else decodeWord s.fetchWord) ∧
  (∀ (s : State) (x : RegIx), 15 < (s.reg x).toNat →
    (s.config.keyIndex = .faultAbove15 → exec (.skp x) s = .fault (.keyIndexAbove15 x) ∧
      exec (.sknp x) s = .fault (.keyIndexAbove15 x)) ∧
    (s.config.fontDigit = .refuseAbove15 → exec (.ldF x) s = .refused (.fontDigitAbove15 x))) ∧
  (∀ (s : State) (n : Nat), s.dataAllowed n = true ↔
    s.config.addrWrap = .modulo ∨ ∀ k, k < n → s.i.toNat + k ≤ 4095) ∧
  (∀ (s : State) (x y : RegIx) (n : Nibble),
    (s.dataAllowed 3 = false → exec (.ldB x) s = .refused (.addressAbove4095 s.i.toNat 3)) ∧
    (s.dataAllowed (x.val + 1) = false →
      exec (.ldMemVx x) s = .refused (.addressAbove4095 s.i.toNat (x.val + 1)) ∧
      exec (.ldVxMem x) s = .refused (.addressAbove4095 s.i.toNat (x.val + 1))) ∧
    (s.dataAllowed n.toNat = false →
      exec (.drw x y n) s = .refused (.addressAbove4095 s.i.toNat n.toNat))) ∧
  (∀ s : State, (s.fetchAllowed = true ↔ s.config.addrWrap = .modulo ∨ s.pc.toNat + 1 ≤ 4095) ∧
    (s.fetchAllowed = false → s.halt = none →
      ∀ (inputs : TickIn) (rest : List HostStep), s.schedule = .tick inputs :: rest →
        step s = .refused (.addressAbove4095 s.pc.toNat 2))) ∧
  ∀ (s : State) (x : RegIx), ∃ t ms, exec (.ldStVx x) s = .next t ∧ t.st = s.reg x ∧
    t.toneRequest = some ms ∧ t.pc = s.pc + 2 ∧ UnchangedBut [.st, .event, .pc] s t ∧
    (s.config.toneRounding = .nearest → 60 * ms.toNat ≤ 1000 * (s.reg x).toNat + 30 ∧
      1000 * (s.reg x).toNat < 60 * ms.toNat + 30) ∧
    (s.config.toneRounding = .up → 1000 * (s.reg x).toNat ≤ 60 * ms.toNat ∧
      60 * ms.toNat < 1000 * (s.reg x).toNat + 60)

/-! ## Rules about the whole machine -/

/-- R196: nothing faults but RET on an empty stack and CALL on a full one. Under the default `ADDR_WRAP`,
`FONT_DIGIT_POLICY` and `KEY_INDEX_POLICY` every instruction answers a next state in every state; under any
parameters the latch changes only there (the depth and the overflow fault are the spec's choice, D7).
That a stack with more entries than `STACK_DEPTH`, which no run reaches, counts as full, so that CALL
takes its fault there too, is the model's (DEDUCED, log 9; R192 says `SP = STACK_DEPTH`). -/
def Obligations.NothingElseFaults : Prop :=
  (∀ (i : Instr) (s : State), s.config.neverStops → ∃ t, exec i s = .next t) ∧
  ∀ (i : Instr) (s t : State), exec i s = .next t → t.halt ≠ s.halt →
    (i = .ret ∧ s.sp = 0) ∨ ((∃ nnn, i = .call nnn) ∧ s.config.stackDepth ≤ s.sp)

/-- Table S1 (R37, the spec's inference): every operation leaves unchanged every part of the state outside
its row's writes, and every register outside the registers its row writes; SYS and INVALID as their
policies say (R185, R186). -/
def Obligations.TableS1Frame : Prop :=
  ∀ (i : Instr) (s t : State), exec i s = .next t →
    UnchangedBut (tableS1Parts s.config i) s t ∧ RegsUnchangedBut (tableS1Regs i) s t

/-- R25: every executed operation moves `PC` by 2, by 4 for a skip taken, to the target of a jump, to that of
a call with room on the stack, to the top entry for a return, or not at all for a fatal fault and, under
the default policies, an unrecognized opcode (the spec's choice, D7, D9, D10, D11, D22, D29). That a CALL
finding more entries than `STACK_DEPTH`, which no run reaches, leaves `PC` too, as on a full stack, is the
model's (DEDUCED, log 9). -/
def Obligations.PcMovesAsListed : Prop :=
  ∀ (i : Instr) (s t : State), exec i s = .next t →
    (t.halt = s.halt → setsPc i = false → isReported i = false →
      t.pc = s.pc + 2 ∨ (isSkip i = true ∧ t.pc = s.pc + 4)) ∧
    (∀ nnn, i = .jp nnn → t.pc.toNat = nnn.toNat) ∧
    (∀ nnn, i = .jpV0 nnn → t.pc.toNat = nnn.toNat + (s.reg 0).toNat) ∧
    (∀ nnn, i = .call nnn → t.pc.toNat = if s.sp < s.config.stackDepth then nnn.toNat else s.pc.toNat) ∧
    (i = .ret → some t.pc = if s.sp = 0 then some s.pc else s.stackEntry (s.sp - 1)) ∧
    (∀ w, i = .invalid w → t.pc = if s.config.invalidPc = .stay then s.pc else s.pc + 2) ∧
    (∀ nnn, i = .sys nnn → t.pc =
      if s.config.sys = .asInvalid ∧ s.config.invalidPc = .stay then s.pc else s.pc + 2) ∧
    (t.halt ≠ s.halt → t.pc = s.pc)

/-- R31: in a run of the machine, a wait begins only in a tick that executes LD Vx,K on that register, and
ends only in a KeyPress, which writes the key's code, or in a Reset. -/
def Obligations.WaitSetAndClearedOnlyAsListed : Prop :=
  ∀ s t : State, step s = .next t →
    (∀ x, s.wait = none → t.wait = some x →
      s.halt = none ∧ s.fetched = .ldVxK x ∧
        ∃ inputs, (nextHostStep s).1 = .tick inputs) ∧
    (∀ x, s.wait = some x → t.wait ≠ some x → t.wait = none ∧
      ((∃ k : KeyCode, (nextHostStep s).1 = .keyPress k ∧ (t.reg x).toNat = k.toNat) ∨
        ∃ rom, (nextHostStep s).1 = .reset rom))

/-- R32: in a run of the machine, `DREW` rises only in a tick that executes DRW or CLS and falls only in a
RenderAck or a Reset (the spec's choice, D24, D25). -/
def Obligations.DrewChangesOnlyAsListed : Prop :=
  ∀ s t : State, step s = .next t →
    (s.drew = false → t.drew = true →
      s.running ∧ ((∃ x y n, s.fetched = .drw x y n) ∨ s.fetched = .cls)) ∧
    (s.drew = true → t.drew = false →
      (nextHostStep s).1 = .renderAck ∨ ∃ rom, (nextHostStep s).1 = .reset rom)

/-- R30: no operation reads `ST`. Two states that differ in `ST` alone are taken by every operation to states
that differ in `ST` alone, and by LD ST, Vx to the same state. -/
def Obligations.SoundTimerIsUnread : Prop :=
  ∀ (i : Instr) (s t : State) (b : Byte), exec i s = .next t →
    exec i (s.setSt b) = .next (match i with | .ldStVx _ => t | _ => t.setSt b)

/-- R101, R110: `keys_held` reaches the state only through SKP and SKNP and `rand_byte` only through RND. An
operation other than these does the same whatever the two inputs are. -/
def Obligations.InputsReadOnlyAsListed : Prop :=
  ∀ (i : Instr) (s t : State) (keys : BitVec 16) (rand : Byte), exec i s = .next t →
    ((∀ x, i ≠ .skp x ∧ i ≠ .sknp x) →
      exec i (s.sample { s.ports with keysHeld := keys }) =
        .next (t.sample { s.ports with keysHeld := keys })) ∧
    ((∀ x kk, i ≠ .rnd x kk) →
      exec i (s.sample { s.ports with randByte := rand }) =
        .next (t.sample { s.ports with randByte := rand }))

/-- R112: in each of the situations without progress a tick changes nothing but the timers and the pulse
outputs, and in the faulted one not even the timers; a machine stuck on a word reports it in every tick. -/
def Obligations.NoProgressSituations : Prop :=
  ∀ (s : State) (inputs : TickIn) (rest : List HostStep), s.schedule = .tick inputs :: rest →
    (s.halt = none → s.fetchAllowed = true) → s.situation ≠ .progressing →
      ∃ t, step s = .next t ∧ UnchangedBut [.dt, .st, .event, .env] s t ∧
        (s.situation = .faulted → t.dt = s.dt ∧ t.st = s.st) ∧
        (s.situation = .stuckOnWord → t.invalidOpcode = some (s.fetchWord, s.pc)) ∧
        (s.situation ≠ .stuckOnWord → t.event = none)

/-! ## The invariant -/

/-- The invariant holds of the reset state (R36), whatever the parameters. -/
def Obligations.InvariantAtReset : Prop := State.reset.Inv ∧ ∀ c : Config, (State.resetWith c).Inv

/-- Every step keeps the invariant, from every state that meets it: memory stays in its canonical form, the
stack within `STACK_DEPTH` (R26), a latched fault stays the one the instruction at `PC` raised (R190, R193,
R194), and a pending wait the one of the LD Vx,K just before `PC` (R175). -/
def Obligations.StepKeepsInvariant : Prop :=
  ∀ s t : State, s.Inv → step s = .next t → t.Inv

/-- A Reset with a program image longer than `MEM_SIZE - PROG_BASE`, by default 3584 bytes, is refused by name;
under the default `ADDR_WRAP`, `FONT_DIGIT_POLICY` and `KEY_INDEX_POLICY` every other host step of every
state completes (R12, R112, R196, R221; that such an image is refused is the spec's choice, D35). That a
CALL finding more entries than `STACK_DEPTH`, which no run reaches, completes as on a full stack is the
model's (DEDUCED, log 9). -/
def Obligations.EveryStepCompletesButOverlongReset : Prop :=
  ∀ s : State,
    (∀ rom, (nextHostStep s).1 = .reset rom → 4096 - s.config.progBase < rom.length →
      step s = .refused (.romTooLong rom.length)) ∧
    (s.config.neverStops →
      (∀ rom, (nextHostStep s).1 = .reset rom → rom.length ≤ 4096 - s.config.progBase) →
        ∃ t, step s = .next t)
end

