-- ==== Sys2Proof/Laws/Decode.lean ====
section
/-! SUPPORT. Words, bytes and fields: the byte order, the fields of an encoded word, a word put together
from its fields, and what the masks of the opcode table keep of a word. -/

namespace Sys2Proof

/-! ## Bytes and words (R53) -/

theorem word_ext {a b : Word} (h : ∀ j < 16, a.getLsbD j = b.getLsbD j) : a = b :=
  BitVec.eq_of_getLsbD_eq h

theorem wordOfBytes_bytesOfWord (w : Word) :
    wordOfBytes (w.extractLsb' 8 8) (w.extractLsb' 0 8) = w := by
  refine word_ext fun j hj => ?_
  simp only [wordOfBytes, BitVec.getLsbD_append, BitVec.getLsbD_extractLsb']
  by_cases h : j < 8
  · simp [h]
  · simp [h, show j - 8 < 8 by omega, show 8 + (j - 8) = j by omega]

theorem decode_bytesOfWord (w : Word) (rest : List Byte) :
    decode (bytesOfWord w ++ rest) = .ok (decodeWord w, rest) := by
  simp [bytesOfWord, decode, wordOfBytes_bytesOfWord]

/-! ## The fields of an encoded word (R72, table E1) -/

theorem toFin_regBits (x : RegIx) : (regBits x).toFin = x := rfl

theorem fieldTop_encA (op : Nibble) (nnn : Addr12) : fieldTop (encA op nnn) = op :=
  BitVec.extractLsb'_append_eq_left

theorem fieldNnn_encA (op : Nibble) (nnn : Addr12) : fieldNnn (encA op nnn) = nnn :=
  BitVec.extractLsb'_append_eq_right

theorem fieldKk_encI (op : Nibble) (x : RegIx) (kk : Byte) : fieldKk (encI op x kk) = kk :=
  BitVec.extractLsb'_append_eq_right

/-- Bits above the low part of a concatenation are bits of the high part. -/
theorem extract_append_high {u v n k : Nat} (a : BitVec u) (b : BitVec v) :
    (a ++ b).extractLsb' (v + k) n = a.extractLsb' k n := by
  apply BitVec.eq_of_getLsbD_eq
  intro j hj
  simp [BitVec.getLsbD_append, hj, show ¬ v + k + j < v by omega,
    show v + k + j - v = k + j by omega]

theorem fieldTop_encI (op : Nibble) (x : RegIx) (kk : Byte) : fieldTop (encI op x kk) = op :=
  (extract_append_high (k := 4) (op ++ regBits x) kk).trans BitVec.extractLsb'_append_eq_left

theorem fieldX_encI (op : Nibble) (x : RegIx) (kk : Byte) : fieldX (encI op x kk) = x :=
  congrArg BitVec.toFin
    ((extract_append_high (k := 0) (op ++ regBits x) kk).trans BitVec.extractLsb'_append_eq_right)

theorem fieldN_encR (op : Nibble) (x y : RegIx) (n : Nibble) : fieldN (encR op x y n) = n :=
  BitVec.extractLsb'_append_eq_right

theorem fieldY_encR (op : Nibble) (x y : RegIx) (n : Nibble) : fieldY (encR op x y n) = y :=
  congrArg BitVec.toFin
    ((extract_append_high (k := 0) (op ++ regBits x ++ regBits y) n).trans
      BitVec.extractLsb'_append_eq_right)

theorem fieldX_encR (op : Nibble) (x y : RegIx) (n : Nibble) : fieldX (encR op x y n) = x :=
  congrArg BitVec.toFin
    ((extract_append_high (k := 4) (op ++ regBits x ++ regBits y) n).trans
      ((extract_append_high (k := 0) (op ++ regBits x) (regBits y)).trans
        BitVec.extractLsb'_append_eq_right))

theorem fieldTop_encR (op : Nibble) (x y : RegIx) (n : Nibble) : fieldTop (encR op x y n) = op :=
  (extract_append_high (k := 8) (op ++ regBits x ++ regBits y) n).trans
    ((extract_append_high (k := 4) (op ++ regBits x) (regBits y)).trans
      BitVec.extractLsb'_append_eq_left)

/-! ## The forms put back together (table E1) -/

theorem encA_fields (w : Word) : encA (fieldTop w) (fieldNnn w) = w := by
  refine word_ext fun j hj => ?_
  simp only [encA, fieldTop, fieldNnn, BitVec.getLsbD_append, BitVec.getLsbD_extractLsb']
  by_cases h : j < 12
  · simp [h]
  · simp [h, show j - 12 < 4 by omega, show 12 + (j - 12) = j by omega]

theorem regBits_fieldX (w : Word) : regBits (fieldX w) = w.extractLsb' 8 4 := rfl

theorem regBits_fieldY (w : Word) : regBits (fieldY w) = w.extractLsb' 4 4 := rfl

theorem encI_fields (w : Word) : encI (fieldTop w) (fieldX w) (fieldKk w) = w := by
  refine word_ext fun j hj => ?_
  simp only [encI, fieldTop, regBits_fieldX, fieldKk, BitVec.getLsbD_append,
    BitVec.getLsbD_extractLsb']
  by_cases h : j < 8
  · simp [h]
  · by_cases h' : j < 12
    · simp [h, show j - 8 < 4 by omega, show 8 + (j - 8) = j by omega]
    · simp [h, show ¬ j - 8 < 4 by omega, show j - 8 - 4 < 4 by omega,
        show 12 + (j - 8 - 4) = j by omega]

theorem encR_fields (w : Word) :
    encR (fieldTop w) (fieldX w) (fieldY w) (fieldN w) = w := by
  refine word_ext fun j hj => ?_
  simp only [encR, fieldTop, regBits_fieldX, regBits_fieldY, fieldN, BitVec.getLsbD_append,
    BitVec.getLsbD_extractLsb']
  by_cases h : j < 4
  · simp [h]
  · by_cases h' : j < 8
    · simp [h, show j - 4 < 4 by omega, show 4 + (j - 4) = j by omega]
    · by_cases h'' : j < 12
      · simp [h, show ¬ j - 4 < 4 by omega, show j - 4 - 4 < 4 by omega,
          show 8 + (j - 4 - 4) = j by omega]
      · simp [h, show ¬ j - 4 < 4 by omega, show ¬ j - 4 - 4 < 4 by omega,
          show j - 4 - 4 - 4 < 4 by omega, show 12 + (j - 4 - 4 - 4) = j by omega]

/-! ## What a row's mask keeps (R88) -/

theorem and_maskTop (w : Word) : w &&& 0xF000#16 = encA (fieldTop w) 0#12 := by
  refine word_ext fun j hj => ?_
  simp only [encA, fieldTop, BitVec.getLsbD_append, BitVec.getLsbD_extractLsb', BitVec.getLsbD_and]
  interval_cases j <;> simp

theorem and_maskTopN (w : Word) : w &&& 0xF00F#16 = encR (fieldTop w) 0 0 (fieldN w) := by
  refine word_ext fun j hj => ?_
  simp only [encR, fieldTop, fieldN, regBits, BitVec.getLsbD_append, BitVec.getLsbD_extractLsb',
    BitVec.getLsbD_and]
  interval_cases j <;> simp

theorem and_maskTopKk (w : Word) : w &&& 0xF0FF#16 = encI (fieldTop w) 0 (fieldKk w) := by
  refine word_ext fun j hj => ?_
  simp only [encI, fieldTop, fieldKk, regBits, BitVec.getLsbD_append, BitVec.getLsbD_extractLsb',
    BitVec.getLsbD_and]
  interval_cases j <;> simp

theorem fieldKk_encR (op : Nibble) (x y : RegIx) (n : Nibble) :
    fieldKk (encR op x y n) = regBits y ++ n := by
  apply BitVec.eq_of_getLsbD_eq
  intro j hj
  simp only [encR, fieldKk, BitVec.getLsbD_append, BitVec.getLsbD_extractLsb']
  interval_cases j <;> simp

end Sys2Proof
end

