-- ==== Sys2Proof/Laws/State.lean ====
section
/-! SUPPORT. One lemma per field per update of State, each true by unfolding, so that no proof unfolds an
update again; then what the accessors read after each update. -/

namespace Sys2Proof.Machine.State

variable (s : State)

/-! ### setReg -/

@[simp] theorem setReg_mem (x : RegIx) (b : Byte) : (s.setReg x b).mem = s.mem := rfl
@[simp] theorem setReg_v (x : RegIx) (b : Byte) : (s.setReg x b).v = s.v.set x.val b x.isLt := rfl
@[simp] theorem setReg_i (x : RegIx) (b : Byte) : (s.setReg x b).i = s.i := rfl
@[simp] theorem setReg_pc (x : RegIx) (b : Byte) : (s.setReg x b).pc = s.pc := rfl
@[simp] theorem setReg_stack (x : RegIx) (b : Byte) : (s.setReg x b).stack = s.stack := rfl
@[simp] theorem setReg_fb (x : RegIx) (b : Byte) : (s.setReg x b).fb = s.fb := rfl
@[simp] theorem setReg_dt (x : RegIx) (b : Byte) : (s.setReg x b).dt = s.dt := rfl
@[simp] theorem setReg_st (x : RegIx) (b : Byte) : (s.setReg x b).st = s.st := rfl
@[simp] theorem setReg_wait (x : RegIx) (b : Byte) : (s.setReg x b).wait = s.wait := rfl
@[simp] theorem setReg_drew (x : RegIx) (b : Byte) : (s.setReg x b).drew = s.drew := rfl
@[simp] theorem setReg_halt (x : RegIx) (b : Byte) : (s.setReg x b).halt = s.halt := rfl
@[simp] theorem setReg_event (x : RegIx) (b : Byte) : (s.setReg x b).event = s.event := rfl
@[simp] theorem setReg_ports (x : RegIx) (b : Byte) : (s.setReg x b).ports = s.ports := rfl
@[simp] theorem setReg_schedule (x : RegIx) (b : Byte) : (s.setReg x b).schedule = s.schedule := rfl
@[simp] theorem setReg_tickNo (x : RegIx) (b : Byte) : (s.setReg x b).tickNo = s.tickNo := rfl
@[simp] theorem setReg_config (x : RegIx) (b : Byte) : (s.setReg x b).config = s.config := rfl
@[simp] theorem setReg_readByte (x : RegIx) (b : Byte) (c : Nat) : (s.setReg x b).readByte c = s.readByte c := rfl
@[simp] theorem setReg_fetchWord (x : RegIx) (b : Byte) : (s.setReg x b).fetchWord = s.fetchWord := rfl
@[simp] theorem setReg_fetched (x : RegIx) (b : Byte) : (s.setReg x b).fetched = s.fetched := rfl
@[simp] theorem setReg_sp (x : RegIx) (b : Byte) : (s.setReg x b).sp = s.sp := rfl

/-! ### setI -/

@[simp] theorem setI_mem (a : Word) : (s.setI a).mem = s.mem := rfl
@[simp] theorem setI_v (a : Word) : (s.setI a).v = s.v := rfl
@[simp] theorem setI_i (a : Word) : (s.setI a).i = a := rfl
@[simp] theorem setI_pc (a : Word) : (s.setI a).pc = s.pc := rfl
@[simp] theorem setI_stack (a : Word) : (s.setI a).stack = s.stack := rfl
@[simp] theorem setI_fb (a : Word) : (s.setI a).fb = s.fb := rfl
@[simp] theorem setI_dt (a : Word) : (s.setI a).dt = s.dt := rfl
@[simp] theorem setI_st (a : Word) : (s.setI a).st = s.st := rfl
@[simp] theorem setI_wait (a : Word) : (s.setI a).wait = s.wait := rfl
@[simp] theorem setI_drew (a : Word) : (s.setI a).drew = s.drew := rfl
@[simp] theorem setI_halt (a : Word) : (s.setI a).halt = s.halt := rfl
@[simp] theorem setI_event (a : Word) : (s.setI a).event = s.event := rfl
@[simp] theorem setI_ports (a : Word) : (s.setI a).ports = s.ports := rfl
@[simp] theorem setI_schedule (a : Word) : (s.setI a).schedule = s.schedule := rfl
@[simp] theorem setI_tickNo (a : Word) : (s.setI a).tickNo = s.tickNo := rfl
@[simp] theorem setI_config (a : Word) : (s.setI a).config = s.config := rfl
@[simp] theorem setI_reg (a : Word) (j : RegIx) : (s.setI a).reg j = s.reg j := rfl
@[simp] theorem setI_readByte (a : Word) (c : Nat) : (s.setI a).readByte c = s.readByte c := rfl
@[simp] theorem setI_fetchWord (a : Word) : (s.setI a).fetchWord = s.fetchWord := rfl
@[simp] theorem setI_fetched (a : Word) : (s.setI a).fetched = s.fetched := rfl
@[simp] theorem setI_sp (a : Word) : (s.setI a).sp = s.sp := rfl

/-! ### setPc -/

@[simp] theorem setPc_mem (a : Word) : (s.setPc a).mem = s.mem := rfl
@[simp] theorem setPc_v (a : Word) : (s.setPc a).v = s.v := rfl
@[simp] theorem setPc_i (a : Word) : (s.setPc a).i = s.i := rfl
@[simp] theorem setPc_pc (a : Word) : (s.setPc a).pc = a := rfl
@[simp] theorem setPc_stack (a : Word) : (s.setPc a).stack = s.stack := rfl
@[simp] theorem setPc_fb (a : Word) : (s.setPc a).fb = s.fb := rfl
@[simp] theorem setPc_dt (a : Word) : (s.setPc a).dt = s.dt := rfl
@[simp] theorem setPc_st (a : Word) : (s.setPc a).st = s.st := rfl
@[simp] theorem setPc_wait (a : Word) : (s.setPc a).wait = s.wait := rfl
@[simp] theorem setPc_drew (a : Word) : (s.setPc a).drew = s.drew := rfl
@[simp] theorem setPc_halt (a : Word) : (s.setPc a).halt = s.halt := rfl
@[simp] theorem setPc_event (a : Word) : (s.setPc a).event = s.event := rfl
@[simp] theorem setPc_ports (a : Word) : (s.setPc a).ports = s.ports := rfl
@[simp] theorem setPc_schedule (a : Word) : (s.setPc a).schedule = s.schedule := rfl
@[simp] theorem setPc_tickNo (a : Word) : (s.setPc a).tickNo = s.tickNo := rfl
@[simp] theorem setPc_config (a : Word) : (s.setPc a).config = s.config := rfl
@[simp] theorem setPc_reg (a : Word) (j : RegIx) : (s.setPc a).reg j = s.reg j := rfl
@[simp] theorem setPc_readByte (a : Word) (c : Nat) : (s.setPc a).readByte c = s.readByte c := rfl
@[simp] theorem setPc_sp (a : Word) : (s.setPc a).sp = s.sp := rfl

/-! ### advance -/

@[simp] theorem advance_mem (d : Word) : (s.advance d).mem = s.mem := rfl
@[simp] theorem advance_v (d : Word) : (s.advance d).v = s.v := rfl
@[simp] theorem advance_i (d : Word) : (s.advance d).i = s.i := rfl
@[simp] theorem advance_pc (d : Word) : (s.advance d).pc = s.pc + d := rfl
@[simp] theorem advance_stack (d : Word) : (s.advance d).stack = s.stack := rfl
@[simp] theorem advance_fb (d : Word) : (s.advance d).fb = s.fb := rfl
@[simp] theorem advance_dt (d : Word) : (s.advance d).dt = s.dt := rfl
@[simp] theorem advance_st (d : Word) : (s.advance d).st = s.st := rfl
@[simp] theorem advance_wait (d : Word) : (s.advance d).wait = s.wait := rfl
@[simp] theorem advance_drew (d : Word) : (s.advance d).drew = s.drew := rfl
@[simp] theorem advance_halt (d : Word) : (s.advance d).halt = s.halt := rfl
@[simp] theorem advance_event (d : Word) : (s.advance d).event = s.event := rfl
@[simp] theorem advance_ports (d : Word) : (s.advance d).ports = s.ports := rfl
@[simp] theorem advance_schedule (d : Word) : (s.advance d).schedule = s.schedule := rfl
@[simp] theorem advance_tickNo (d : Word) : (s.advance d).tickNo = s.tickNo := rfl
@[simp] theorem advance_config (d : Word) : (s.advance d).config = s.config := rfl
@[simp] theorem advance_reg (d : Word) (j : RegIx) : (s.advance d).reg j = s.reg j := rfl
@[simp] theorem advance_readByte (d : Word) (c : Nat) : (s.advance d).readByte c = s.readByte c := rfl
@[simp] theorem advance_sp (d : Word) : (s.advance d).sp = s.sp := rfl

/-! ### setDt -/

@[simp] theorem setDt_mem (b : Byte) : (s.setDt b).mem = s.mem := rfl
@[simp] theorem setDt_v (b : Byte) : (s.setDt b).v = s.v := rfl
@[simp] theorem setDt_i (b : Byte) : (s.setDt b).i = s.i := rfl
@[simp] theorem setDt_pc (b : Byte) : (s.setDt b).pc = s.pc := rfl
@[simp] theorem setDt_stack (b : Byte) : (s.setDt b).stack = s.stack := rfl
@[simp] theorem setDt_fb (b : Byte) : (s.setDt b).fb = s.fb := rfl
@[simp] theorem setDt_dt (b : Byte) : (s.setDt b).dt = b := rfl
@[simp] theorem setDt_st (b : Byte) : (s.setDt b).st = s.st := rfl
@[simp] theorem setDt_wait (b : Byte) : (s.setDt b).wait = s.wait := rfl
@[simp] theorem setDt_drew (b : Byte) : (s.setDt b).drew = s.drew := rfl
@[simp] theorem setDt_halt (b : Byte) : (s.setDt b).halt = s.halt := rfl
@[simp] theorem setDt_event (b : Byte) : (s.setDt b).event = s.event := rfl
@[simp] theorem setDt_ports (b : Byte) : (s.setDt b).ports = s.ports := rfl
@[simp] theorem setDt_schedule (b : Byte) : (s.setDt b).schedule = s.schedule := rfl
@[simp] theorem setDt_tickNo (b : Byte) : (s.setDt b).tickNo = s.tickNo := rfl
@[simp] theorem setDt_config (b : Byte) : (s.setDt b).config = s.config := rfl
@[simp] theorem setDt_reg (b : Byte) (j : RegIx) : (s.setDt b).reg j = s.reg j := rfl
@[simp] theorem setDt_readByte (b : Byte) (c : Nat) : (s.setDt b).readByte c = s.readByte c := rfl
@[simp] theorem setDt_fetchWord (b : Byte) : (s.setDt b).fetchWord = s.fetchWord := rfl
@[simp] theorem setDt_fetched (b : Byte) : (s.setDt b).fetched = s.fetched := rfl
@[simp] theorem setDt_sp (b : Byte) : (s.setDt b).sp = s.sp := rfl

/-! ### setSt -/

@[simp] theorem setSt_mem (b : Byte) : (s.setSt b).mem = s.mem := rfl
@[simp] theorem setSt_v (b : Byte) : (s.setSt b).v = s.v := rfl
@[simp] theorem setSt_i (b : Byte) : (s.setSt b).i = s.i := rfl
@[simp] theorem setSt_pc (b : Byte) : (s.setSt b).pc = s.pc := rfl
@[simp] theorem setSt_stack (b : Byte) : (s.setSt b).stack = s.stack := rfl
@[simp] theorem setSt_fb (b : Byte) : (s.setSt b).fb = s.fb := rfl
@[simp] theorem setSt_dt (b : Byte) : (s.setSt b).dt = s.dt := rfl
@[simp] theorem setSt_st (b : Byte) : (s.setSt b).st = b := rfl
@[simp] theorem setSt_wait (b : Byte) : (s.setSt b).wait = s.wait := rfl
@[simp] theorem setSt_drew (b : Byte) : (s.setSt b).drew = s.drew := rfl
@[simp] theorem setSt_halt (b : Byte) : (s.setSt b).halt = s.halt := rfl
@[simp] theorem setSt_event (b : Byte) : (s.setSt b).event = s.event := rfl
@[simp] theorem setSt_ports (b : Byte) : (s.setSt b).ports = s.ports := rfl
@[simp] theorem setSt_schedule (b : Byte) : (s.setSt b).schedule = s.schedule := rfl
@[simp] theorem setSt_tickNo (b : Byte) : (s.setSt b).tickNo = s.tickNo := rfl
@[simp] theorem setSt_config (b : Byte) : (s.setSt b).config = s.config := rfl
@[simp] theorem setSt_reg (b : Byte) (j : RegIx) : (s.setSt b).reg j = s.reg j := rfl
@[simp] theorem setSt_readByte (b : Byte) (c : Nat) : (s.setSt b).readByte c = s.readByte c := rfl
@[simp] theorem setSt_fetchWord (b : Byte) : (s.setSt b).fetchWord = s.fetchWord := rfl
@[simp] theorem setSt_fetched (b : Byte) : (s.setSt b).fetched = s.fetched := rfl
@[simp] theorem setSt_sp (b : Byte) : (s.setSt b).sp = s.sp := rfl

/-! ### setWait -/

@[simp] theorem setWait_mem (w : Option RegIx) : (s.setWait w).mem = s.mem := rfl
@[simp] theorem setWait_v (w : Option RegIx) : (s.setWait w).v = s.v := rfl
@[simp] theorem setWait_i (w : Option RegIx) : (s.setWait w).i = s.i := rfl
@[simp] theorem setWait_pc (w : Option RegIx) : (s.setWait w).pc = s.pc := rfl
@[simp] theorem setWait_stack (w : Option RegIx) : (s.setWait w).stack = s.stack := rfl
@[simp] theorem setWait_fb (w : Option RegIx) : (s.setWait w).fb = s.fb := rfl
@[simp] theorem setWait_dt (w : Option RegIx) : (s.setWait w).dt = s.dt := rfl
@[simp] theorem setWait_st (w : Option RegIx) : (s.setWait w).st = s.st := rfl
@[simp] theorem setWait_wait (w : Option RegIx) : (s.setWait w).wait = w := rfl
@[simp] theorem setWait_drew (w : Option RegIx) : (s.setWait w).drew = s.drew := rfl
@[simp] theorem setWait_halt (w : Option RegIx) : (s.setWait w).halt = s.halt := rfl
@[simp] theorem setWait_event (w : Option RegIx) : (s.setWait w).event = s.event := rfl
@[simp] theorem setWait_ports (w : Option RegIx) : (s.setWait w).ports = s.ports := rfl
@[simp] theorem setWait_schedule (w : Option RegIx) : (s.setWait w).schedule = s.schedule := rfl
@[simp] theorem setWait_tickNo (w : Option RegIx) : (s.setWait w).tickNo = s.tickNo := rfl
@[simp] theorem setWait_config (w : Option RegIx) : (s.setWait w).config = s.config := rfl
@[simp] theorem setWait_reg (w : Option RegIx) (j : RegIx) : (s.setWait w).reg j = s.reg j := rfl
@[simp] theorem setWait_readByte (w : Option RegIx) (c : Nat) : (s.setWait w).readByte c = s.readByte c := rfl
@[simp] theorem setWait_fetchWord (w : Option RegIx) : (s.setWait w).fetchWord = s.fetchWord := rfl
@[simp] theorem setWait_fetched (w : Option RegIx) : (s.setWait w).fetched = s.fetched := rfl
@[simp] theorem setWait_sp (w : Option RegIx) : (s.setWait w).sp = s.sp := rfl

/-! ### setDrew -/

@[simp] theorem setDrew_mem (b : Bool) : (s.setDrew b).mem = s.mem := rfl
@[simp] theorem setDrew_v (b : Bool) : (s.setDrew b).v = s.v := rfl
@[simp] theorem setDrew_i (b : Bool) : (s.setDrew b).i = s.i := rfl
@[simp] theorem setDrew_pc (b : Bool) : (s.setDrew b).pc = s.pc := rfl
@[simp] theorem setDrew_stack (b : Bool) : (s.setDrew b).stack = s.stack := rfl
@[simp] theorem setDrew_fb (b : Bool) : (s.setDrew b).fb = s.fb := rfl
@[simp] theorem setDrew_dt (b : Bool) : (s.setDrew b).dt = s.dt := rfl
@[simp] theorem setDrew_st (b : Bool) : (s.setDrew b).st = s.st := rfl
@[simp] theorem setDrew_wait (b : Bool) : (s.setDrew b).wait = s.wait := rfl
@[simp] theorem setDrew_drew (b : Bool) : (s.setDrew b).drew = b := rfl
@[simp] theorem setDrew_halt (b : Bool) : (s.setDrew b).halt = s.halt := rfl
@[simp] theorem setDrew_event (b : Bool) : (s.setDrew b).event = s.event := rfl
@[simp] theorem setDrew_ports (b : Bool) : (s.setDrew b).ports = s.ports := rfl
@[simp] theorem setDrew_schedule (b : Bool) : (s.setDrew b).schedule = s.schedule := rfl
@[simp] theorem setDrew_tickNo (b : Bool) : (s.setDrew b).tickNo = s.tickNo := rfl
@[simp] theorem setDrew_config (b : Bool) : (s.setDrew b).config = s.config := rfl
@[simp] theorem setDrew_reg (b : Bool) (j : RegIx) : (s.setDrew b).reg j = s.reg j := rfl
@[simp] theorem setDrew_readByte (b : Bool) (c : Nat) : (s.setDrew b).readByte c = s.readByte c := rfl
@[simp] theorem setDrew_fetchWord (b : Bool) : (s.setDrew b).fetchWord = s.fetchWord := rfl
@[simp] theorem setDrew_fetched (b : Bool) : (s.setDrew b).fetched = s.fetched := rfl
@[simp] theorem setDrew_sp (b : Bool) : (s.setDrew b).sp = s.sp := rfl

/-! ### setFb -/

@[simp] theorem setFb_mem (f : FrameBuffer) : (s.setFb f).mem = s.mem := rfl
@[simp] theorem setFb_v (f : FrameBuffer) : (s.setFb f).v = s.v := rfl
@[simp] theorem setFb_i (f : FrameBuffer) : (s.setFb f).i = s.i := rfl
@[simp] theorem setFb_pc (f : FrameBuffer) : (s.setFb f).pc = s.pc := rfl
@[simp] theorem setFb_stack (f : FrameBuffer) : (s.setFb f).stack = s.stack := rfl
@[simp] theorem setFb_fb (f : FrameBuffer) : (s.setFb f).fb = f := rfl
@[simp] theorem setFb_dt (f : FrameBuffer) : (s.setFb f).dt = s.dt := rfl
@[simp] theorem setFb_st (f : FrameBuffer) : (s.setFb f).st = s.st := rfl
@[simp] theorem setFb_wait (f : FrameBuffer) : (s.setFb f).wait = s.wait := rfl
@[simp] theorem setFb_drew (f : FrameBuffer) : (s.setFb f).drew = s.drew := rfl
@[simp] theorem setFb_halt (f : FrameBuffer) : (s.setFb f).halt = s.halt := rfl
@[simp] theorem setFb_event (f : FrameBuffer) : (s.setFb f).event = s.event := rfl
@[simp] theorem setFb_ports (f : FrameBuffer) : (s.setFb f).ports = s.ports := rfl
@[simp] theorem setFb_schedule (f : FrameBuffer) : (s.setFb f).schedule = s.schedule := rfl
@[simp] theorem setFb_tickNo (f : FrameBuffer) : (s.setFb f).tickNo = s.tickNo := rfl
@[simp] theorem setFb_config (f : FrameBuffer) : (s.setFb f).config = s.config := rfl
@[simp] theorem setFb_reg (f : FrameBuffer) (j : RegIx) : (s.setFb f).reg j = s.reg j := rfl
@[simp] theorem setFb_readByte (f : FrameBuffer) (c : Nat) : (s.setFb f).readByte c = s.readByte c := rfl
@[simp] theorem setFb_fetchWord (f : FrameBuffer) : (s.setFb f).fetchWord = s.fetchWord := rfl
@[simp] theorem setFb_fetched (f : FrameBuffer) : (s.setFb f).fetched = s.fetched := rfl
@[simp] theorem setFb_sp (f : FrameBuffer) : (s.setFb f).sp = s.sp := rfl

/-! ### setHalt -/

@[simp] theorem setHalt_mem (h : Option HaltInfo) : (s.setHalt h).mem = s.mem := rfl
@[simp] theorem setHalt_v (h : Option HaltInfo) : (s.setHalt h).v = s.v := rfl
@[simp] theorem setHalt_i (h : Option HaltInfo) : (s.setHalt h).i = s.i := rfl
@[simp] theorem setHalt_pc (h : Option HaltInfo) : (s.setHalt h).pc = s.pc := rfl
@[simp] theorem setHalt_stack (h : Option HaltInfo) : (s.setHalt h).stack = s.stack := rfl
@[simp] theorem setHalt_fb (h : Option HaltInfo) : (s.setHalt h).fb = s.fb := rfl
@[simp] theorem setHalt_dt (h : Option HaltInfo) : (s.setHalt h).dt = s.dt := rfl
@[simp] theorem setHalt_st (h : Option HaltInfo) : (s.setHalt h).st = s.st := rfl
@[simp] theorem setHalt_wait (h : Option HaltInfo) : (s.setHalt h).wait = s.wait := rfl
@[simp] theorem setHalt_drew (h : Option HaltInfo) : (s.setHalt h).drew = s.drew := rfl
@[simp] theorem setHalt_halt (h : Option HaltInfo) : (s.setHalt h).halt = h := rfl
@[simp] theorem setHalt_event (h : Option HaltInfo) : (s.setHalt h).event = s.event := rfl
@[simp] theorem setHalt_ports (h : Option HaltInfo) : (s.setHalt h).ports = s.ports := rfl
@[simp] theorem setHalt_schedule (h : Option HaltInfo) : (s.setHalt h).schedule = s.schedule := rfl
@[simp] theorem setHalt_tickNo (h : Option HaltInfo) : (s.setHalt h).tickNo = s.tickNo := rfl
@[simp] theorem setHalt_config (h : Option HaltInfo) : (s.setHalt h).config = s.config := rfl
@[simp] theorem setHalt_reg (h : Option HaltInfo) (j : RegIx) : (s.setHalt h).reg j = s.reg j := rfl
@[simp] theorem setHalt_readByte (h : Option HaltInfo) (c : Nat) : (s.setHalt h).readByte c = s.readByte c := rfl
@[simp] theorem setHalt_fetchWord (h : Option HaltInfo) : (s.setHalt h).fetchWord = s.fetchWord := rfl
@[simp] theorem setHalt_fetched (h : Option HaltInfo) : (s.setHalt h).fetched = s.fetched := rfl
@[simp] theorem setHalt_sp (h : Option HaltInfo) : (s.setHalt h).sp = s.sp := rfl

/-! ### setStack -/

@[simp] theorem setStack_mem (l : List Word) : (s.setStack l).mem = s.mem := rfl
@[simp] theorem setStack_v (l : List Word) : (s.setStack l).v = s.v := rfl
@[simp] theorem setStack_i (l : List Word) : (s.setStack l).i = s.i := rfl
@[simp] theorem setStack_pc (l : List Word) : (s.setStack l).pc = s.pc := rfl
@[simp] theorem setStack_stack (l : List Word) : (s.setStack l).stack = l := rfl
@[simp] theorem setStack_fb (l : List Word) : (s.setStack l).fb = s.fb := rfl
@[simp] theorem setStack_dt (l : List Word) : (s.setStack l).dt = s.dt := rfl
@[simp] theorem setStack_st (l : List Word) : (s.setStack l).st = s.st := rfl
@[simp] theorem setStack_wait (l : List Word) : (s.setStack l).wait = s.wait := rfl
@[simp] theorem setStack_drew (l : List Word) : (s.setStack l).drew = s.drew := rfl
@[simp] theorem setStack_halt (l : List Word) : (s.setStack l).halt = s.halt := rfl
@[simp] theorem setStack_event (l : List Word) : (s.setStack l).event = s.event := rfl
@[simp] theorem setStack_ports (l : List Word) : (s.setStack l).ports = s.ports := rfl
@[simp] theorem setStack_schedule (l : List Word) : (s.setStack l).schedule = s.schedule := rfl
@[simp] theorem setStack_tickNo (l : List Word) : (s.setStack l).tickNo = s.tickNo := rfl
@[simp] theorem setStack_config (l : List Word) : (s.setStack l).config = s.config := rfl
@[simp] theorem setStack_reg (l : List Word) (j : RegIx) : (s.setStack l).reg j = s.reg j := rfl
@[simp] theorem setStack_readByte (l : List Word) (c : Nat) : (s.setStack l).readByte c = s.readByte c := rfl
@[simp] theorem setStack_fetchWord (l : List Word) : (s.setStack l).fetchWord = s.fetchWord := rfl
@[simp] theorem setStack_fetched (l : List Word) : (s.setStack l).fetched = s.fetched := rfl

/-! ### push -/

@[simp] theorem push_mem (a : Word) : (s.push a).mem = s.mem := rfl
@[simp] theorem push_v (a : Word) : (s.push a).v = s.v := rfl
@[simp] theorem push_i (a : Word) : (s.push a).i = s.i := rfl
@[simp] theorem push_pc (a : Word) : (s.push a).pc = s.pc := rfl
@[simp] theorem push_stack (a : Word) : (s.push a).stack = a :: s.stack := rfl
@[simp] theorem push_fb (a : Word) : (s.push a).fb = s.fb := rfl
@[simp] theorem push_dt (a : Word) : (s.push a).dt = s.dt := rfl
@[simp] theorem push_st (a : Word) : (s.push a).st = s.st := rfl
@[simp] theorem push_wait (a : Word) : (s.push a).wait = s.wait := rfl
@[simp] theorem push_drew (a : Word) : (s.push a).drew = s.drew := rfl
@[simp] theorem push_halt (a : Word) : (s.push a).halt = s.halt := rfl
@[simp] theorem push_event (a : Word) : (s.push a).event = s.event := rfl
@[simp] theorem push_ports (a : Word) : (s.push a).ports = s.ports := rfl
@[simp] theorem push_schedule (a : Word) : (s.push a).schedule = s.schedule := rfl
@[simp] theorem push_tickNo (a : Word) : (s.push a).tickNo = s.tickNo := rfl
@[simp] theorem push_config (a : Word) : (s.push a).config = s.config := rfl
@[simp] theorem push_reg (a : Word) (j : RegIx) : (s.push a).reg j = s.reg j := rfl
@[simp] theorem push_readByte (a : Word) (c : Nat) : (s.push a).readByte c = s.readByte c := rfl
@[simp] theorem push_fetchWord (a : Word) : (s.push a).fetchWord = s.fetchWord := rfl
@[simp] theorem push_fetched (a : Word) : (s.push a).fetched = s.fetched := rfl

/-! ### takeFault -/

@[simp] theorem takeFault_mem (k : HaltKind) : (s.takeFault k).mem = s.mem := rfl
@[simp] theorem takeFault_v (k : HaltKind) : (s.takeFault k).v = s.v := rfl
@[simp] theorem takeFault_i (k : HaltKind) : (s.takeFault k).i = s.i := rfl
@[simp] theorem takeFault_pc (k : HaltKind) : (s.takeFault k).pc = s.pc := rfl
@[simp] theorem takeFault_stack (k : HaltKind) : (s.takeFault k).stack = s.stack := rfl
@[simp] theorem takeFault_fb (k : HaltKind) : (s.takeFault k).fb = s.fb := rfl
@[simp] theorem takeFault_dt (k : HaltKind) : (s.takeFault k).dt = s.dt := rfl
@[simp] theorem takeFault_st (k : HaltKind) : (s.takeFault k).st = s.st := rfl
@[simp] theorem takeFault_wait (k : HaltKind) : (s.takeFault k).wait = s.wait := rfl
@[simp] theorem takeFault_drew (k : HaltKind) : (s.takeFault k).drew = s.drew := rfl
@[simp] theorem takeFault_halt (k : HaltKind) : (s.takeFault k).halt = some ⟨k, s.pc⟩ := rfl
@[simp] theorem takeFault_event (k : HaltKind) : (s.takeFault k).event = s.event := rfl
@[simp] theorem takeFault_ports (k : HaltKind) : (s.takeFault k).ports = s.ports := rfl
@[simp] theorem takeFault_schedule (k : HaltKind) : (s.takeFault k).schedule = s.schedule := rfl
@[simp] theorem takeFault_tickNo (k : HaltKind) : (s.takeFault k).tickNo = s.tickNo := rfl
@[simp] theorem takeFault_config (k : HaltKind) : (s.takeFault k).config = s.config := rfl
@[simp] theorem takeFault_reg (k : HaltKind) (j : RegIx) : (s.takeFault k).reg j = s.reg j := rfl
@[simp] theorem takeFault_readByte (k : HaltKind) (c : Nat) : (s.takeFault k).readByte c = s.readByte c := rfl
@[simp] theorem takeFault_fetchWord (k : HaltKind) : (s.takeFault k).fetchWord = s.fetchWord := rfl
@[simp] theorem takeFault_fetched (k : HaltKind) : (s.takeFault k).fetched = s.fetched := rfl
@[simp] theorem takeFault_sp (k : HaltKind) : (s.takeFault k).sp = s.sp := rfl

/-! ### emit -/

@[simp] theorem emit_mem (e : Event) : (s.emit e).mem = s.mem := rfl
@[simp] theorem emit_v (e : Event) : (s.emit e).v = s.v := rfl
@[simp] theorem emit_i (e : Event) : (s.emit e).i = s.i := rfl
@[simp] theorem emit_pc (e : Event) : (s.emit e).pc = s.pc := rfl
@[simp] theorem emit_stack (e : Event) : (s.emit e).stack = s.stack := rfl
@[simp] theorem emit_fb (e : Event) : (s.emit e).fb = s.fb := rfl
@[simp] theorem emit_dt (e : Event) : (s.emit e).dt = s.dt := rfl
@[simp] theorem emit_st (e : Event) : (s.emit e).st = s.st := rfl
@[simp] theorem emit_wait (e : Event) : (s.emit e).wait = s.wait := rfl
@[simp] theorem emit_drew (e : Event) : (s.emit e).drew = s.drew := rfl
@[simp] theorem emit_halt (e : Event) : (s.emit e).halt = s.halt := rfl
@[simp] theorem emit_event (e : Event) : (s.emit e).event = some e := rfl
@[simp] theorem emit_ports (e : Event) : (s.emit e).ports = s.ports := rfl
@[simp] theorem emit_schedule (e : Event) : (s.emit e).schedule = s.schedule := rfl
@[simp] theorem emit_tickNo (e : Event) : (s.emit e).tickNo = s.tickNo := rfl
@[simp] theorem emit_config (e : Event) : (s.emit e).config = s.config := rfl
@[simp] theorem emit_reg (e : Event) (j : RegIx) : (s.emit e).reg j = s.reg j := rfl
@[simp] theorem emit_readByte (e : Event) (c : Nat) : (s.emit e).readByte c = s.readByte c := rfl
@[simp] theorem emit_fetchWord (e : Event) : (s.emit e).fetchWord = s.fetchWord := rfl
@[simp] theorem emit_fetched (e : Event) : (s.emit e).fetched = s.fetched := rfl
@[simp] theorem emit_sp (e : Event) : (s.emit e).sp = s.sp := rfl

/-! ### timerAdvance -/

@[simp] theorem timerAdvance_mem (p q : Bool) : (s.timerAdvance p q).mem = s.mem := rfl
@[simp] theorem timerAdvance_v (p q : Bool) : (s.timerAdvance p q).v = s.v := rfl
@[simp] theorem timerAdvance_i (p q : Bool) : (s.timerAdvance p q).i = s.i := rfl
@[simp] theorem timerAdvance_pc (p q : Bool) : (s.timerAdvance p q).pc = s.pc := rfl
@[simp] theorem timerAdvance_stack (p q : Bool) : (s.timerAdvance p q).stack = s.stack := rfl
@[simp] theorem timerAdvance_fb (p q : Bool) : (s.timerAdvance p q).fb = s.fb := rfl
@[simp] theorem timerAdvance_dt (p q : Bool) : (s.timerAdvance p q).dt = countDown p s.dt := rfl
@[simp] theorem timerAdvance_st (p q : Bool) : (s.timerAdvance p q).st = countDown q s.st := rfl
@[simp] theorem timerAdvance_wait (p q : Bool) : (s.timerAdvance p q).wait = s.wait := rfl
@[simp] theorem timerAdvance_drew (p q : Bool) : (s.timerAdvance p q).drew = s.drew := rfl
@[simp] theorem timerAdvance_halt (p q : Bool) : (s.timerAdvance p q).halt = s.halt := rfl
@[simp] theorem timerAdvance_event (p q : Bool) : (s.timerAdvance p q).event = s.event := rfl
@[simp] theorem timerAdvance_ports (p q : Bool) : (s.timerAdvance p q).ports = s.ports := rfl
@[simp] theorem timerAdvance_schedule (p q : Bool) : (s.timerAdvance p q).schedule = s.schedule := rfl
@[simp] theorem timerAdvance_tickNo (p q : Bool) : (s.timerAdvance p q).tickNo = s.tickNo := rfl
@[simp] theorem timerAdvance_config (p q : Bool) : (s.timerAdvance p q).config = s.config := rfl
@[simp] theorem timerAdvance_reg (p q : Bool) (j : RegIx) : (s.timerAdvance p q).reg j = s.reg j := rfl
@[simp] theorem timerAdvance_readByte (p q : Bool) (c : Nat) : (s.timerAdvance p q).readByte c = s.readByte c := rfl
@[simp] theorem timerAdvance_fetchWord (p q : Bool) : (s.timerAdvance p q).fetchWord = s.fetchWord := rfl
@[simp] theorem timerAdvance_fetched (p q : Bool) : (s.timerAdvance p q).fetched = s.fetched := rfl
@[simp] theorem timerAdvance_sp (p q : Bool) : (s.timerAdvance p q).sp = s.sp := rfl

/-! ### beginStep -/

@[simp] theorem beginStep_mem : (s.beginStep).mem = s.mem := rfl
@[simp] theorem beginStep_v : (s.beginStep).v = s.v := rfl
@[simp] theorem beginStep_i : (s.beginStep).i = s.i := rfl
@[simp] theorem beginStep_pc : (s.beginStep).pc = s.pc := rfl
@[simp] theorem beginStep_stack : (s.beginStep).stack = s.stack := rfl
@[simp] theorem beginStep_fb : (s.beginStep).fb = s.fb := rfl
@[simp] theorem beginStep_dt : (s.beginStep).dt = s.dt := rfl
@[simp] theorem beginStep_st : (s.beginStep).st = s.st := rfl
@[simp] theorem beginStep_wait : (s.beginStep).wait = s.wait := rfl
@[simp] theorem beginStep_drew : (s.beginStep).drew = s.drew := rfl
@[simp] theorem beginStep_halt : (s.beginStep).halt = s.halt := rfl
@[simp] theorem beginStep_event : (s.beginStep).event = none := rfl
@[simp] theorem beginStep_ports : (s.beginStep).ports = s.ports := rfl
@[simp] theorem beginStep_schedule : (s.beginStep).schedule = s.schedule := rfl
@[simp] theorem beginStep_tickNo : (s.beginStep).tickNo = s.tickNo := rfl
@[simp] theorem beginStep_config : (s.beginStep).config = s.config := rfl
@[simp] theorem beginStep_reg (j : RegIx) : (s.beginStep).reg j = s.reg j := rfl
@[simp] theorem beginStep_readByte (c : Nat) : (s.beginStep).readByte c = s.readByte c := rfl
@[simp] theorem beginStep_fetchWord : (s.beginStep).fetchWord = s.fetchWord := rfl
@[simp] theorem beginStep_fetched : (s.beginStep).fetched = s.fetched := rfl
@[simp] theorem beginStep_sp : (s.beginStep).sp = s.sp := rfl

/-! ### sample -/

@[simp] theorem sample_mem (p : TickIn) : (s.sample p).mem = s.mem := rfl
@[simp] theorem sample_v (p : TickIn) : (s.sample p).v = s.v := rfl
@[simp] theorem sample_i (p : TickIn) : (s.sample p).i = s.i := rfl
@[simp] theorem sample_pc (p : TickIn) : (s.sample p).pc = s.pc := rfl
@[simp] theorem sample_stack (p : TickIn) : (s.sample p).stack = s.stack := rfl
@[simp] theorem sample_fb (p : TickIn) : (s.sample p).fb = s.fb := rfl
@[simp] theorem sample_dt (p : TickIn) : (s.sample p).dt = s.dt := rfl
@[simp] theorem sample_st (p : TickIn) : (s.sample p).st = s.st := rfl
@[simp] theorem sample_wait (p : TickIn) : (s.sample p).wait = s.wait := rfl
@[simp] theorem sample_drew (p : TickIn) : (s.sample p).drew = s.drew := rfl
@[simp] theorem sample_halt (p : TickIn) : (s.sample p).halt = s.halt := rfl
@[simp] theorem sample_event (p : TickIn) : (s.sample p).event = s.event := rfl
@[simp] theorem sample_ports (p : TickIn) : (s.sample p).ports = p := rfl
@[simp] theorem sample_schedule (p : TickIn) : (s.sample p).schedule = s.schedule := rfl
@[simp] theorem sample_tickNo (p : TickIn) : (s.sample p).tickNo = s.tickNo := rfl
@[simp] theorem sample_config (p : TickIn) : (s.sample p).config = s.config := rfl
@[simp] theorem sample_reg (p : TickIn) (j : RegIx) : (s.sample p).reg j = s.reg j := rfl
@[simp] theorem sample_readByte (p : TickIn) (c : Nat) : (s.sample p).readByte c = s.readByte c := rfl
@[simp] theorem sample_fetchWord (p : TickIn) : (s.sample p).fetchWord = s.fetchWord := rfl
@[simp] theorem sample_fetched (p : TickIn) : (s.sample p).fetched = s.fetched := rfl
@[simp] theorem sample_sp (p : TickIn) : (s.sample p).sp = s.sp := rfl

/-! ### setSchedule -/

@[simp] theorem setSchedule_mem (l : List HostStep) : (s.setSchedule l).mem = s.mem := rfl
@[simp] theorem setSchedule_v (l : List HostStep) : (s.setSchedule l).v = s.v := rfl
@[simp] theorem setSchedule_i (l : List HostStep) : (s.setSchedule l).i = s.i := rfl
@[simp] theorem setSchedule_pc (l : List HostStep) : (s.setSchedule l).pc = s.pc := rfl
@[simp] theorem setSchedule_stack (l : List HostStep) : (s.setSchedule l).stack = s.stack := rfl
@[simp] theorem setSchedule_fb (l : List HostStep) : (s.setSchedule l).fb = s.fb := rfl
@[simp] theorem setSchedule_dt (l : List HostStep) : (s.setSchedule l).dt = s.dt := rfl
@[simp] theorem setSchedule_st (l : List HostStep) : (s.setSchedule l).st = s.st := rfl
@[simp] theorem setSchedule_wait (l : List HostStep) : (s.setSchedule l).wait = s.wait := rfl
@[simp] theorem setSchedule_drew (l : List HostStep) : (s.setSchedule l).drew = s.drew := rfl
@[simp] theorem setSchedule_halt (l : List HostStep) : (s.setSchedule l).halt = s.halt := rfl
@[simp] theorem setSchedule_event (l : List HostStep) : (s.setSchedule l).event = s.event := rfl
@[simp] theorem setSchedule_ports (l : List HostStep) : (s.setSchedule l).ports = s.ports := rfl
@[simp] theorem setSchedule_schedule (l : List HostStep) : (s.setSchedule l).schedule = l := rfl
@[simp] theorem setSchedule_tickNo (l : List HostStep) : (s.setSchedule l).tickNo = s.tickNo := rfl
@[simp] theorem setSchedule_config (l : List HostStep) : (s.setSchedule l).config = s.config := rfl
@[simp] theorem setSchedule_reg (l : List HostStep) (j : RegIx) : (s.setSchedule l).reg j = s.reg j := rfl
@[simp] theorem setSchedule_readByte (l : List HostStep) (c : Nat) : (s.setSchedule l).readByte c = s.readByte c := rfl
@[simp] theorem setSchedule_fetchWord (l : List HostStep) : (s.setSchedule l).fetchWord = s.fetchWord := rfl
@[simp] theorem setSchedule_fetched (l : List HostStep) : (s.setSchedule l).fetched = s.fetched := rfl
@[simp] theorem setSchedule_sp (l : List HostStep) : (s.setSchedule l).sp = s.sp := rfl

/-! ### countTick -/

@[simp] theorem countTick_mem : (s.countTick).mem = s.mem := rfl
@[simp] theorem countTick_v : (s.countTick).v = s.v := rfl
@[simp] theorem countTick_i : (s.countTick).i = s.i := rfl
@[simp] theorem countTick_pc : (s.countTick).pc = s.pc := rfl
@[simp] theorem countTick_stack : (s.countTick).stack = s.stack := rfl
@[simp] theorem countTick_fb : (s.countTick).fb = s.fb := rfl
@[simp] theorem countTick_dt : (s.countTick).dt = s.dt := rfl
@[simp] theorem countTick_st : (s.countTick).st = s.st := rfl
@[simp] theorem countTick_wait : (s.countTick).wait = s.wait := rfl
@[simp] theorem countTick_drew : (s.countTick).drew = s.drew := rfl
@[simp] theorem countTick_halt : (s.countTick).halt = s.halt := rfl
@[simp] theorem countTick_event : (s.countTick).event = s.event := rfl
@[simp] theorem countTick_ports : (s.countTick).ports = s.ports := rfl
@[simp] theorem countTick_schedule : (s.countTick).schedule = s.schedule := rfl
@[simp] theorem countTick_tickNo : (s.countTick).tickNo = s.tickNo + 1 := rfl
@[simp] theorem countTick_config : (s.countTick).config = s.config := rfl
@[simp] theorem countTick_reg (j : RegIx) : (s.countTick).reg j = s.reg j := rfl
@[simp] theorem countTick_readByte (c : Nat) : (s.countTick).readByte c = s.readByte c := rfl
@[simp] theorem countTick_fetchWord : (s.countTick).fetchWord = s.fetchWord := rfl
@[simp] theorem countTick_fetched : (s.countTick).fetched = s.fetched := rfl
@[simp] theorem countTick_sp : (s.countTick).sp = s.sp := rfl

/-! ### writeBytes -/

@[simp] theorem writeBytes_mem (a : Nat) (bs : List Byte) : (s.writeBytes a bs).mem = Memory.writeBytes s.config s.mem a bs := rfl
@[simp] theorem writeBytes_v (a : Nat) (bs : List Byte) : (s.writeBytes a bs).v = s.v := rfl
@[simp] theorem writeBytes_i (a : Nat) (bs : List Byte) : (s.writeBytes a bs).i = s.i := rfl
@[simp] theorem writeBytes_pc (a : Nat) (bs : List Byte) : (s.writeBytes a bs).pc = s.pc := rfl
@[simp] theorem writeBytes_stack (a : Nat) (bs : List Byte) : (s.writeBytes a bs).stack = s.stack := rfl
@[simp] theorem writeBytes_fb (a : Nat) (bs : List Byte) : (s.writeBytes a bs).fb = s.fb := rfl
@[simp] theorem writeBytes_dt (a : Nat) (bs : List Byte) : (s.writeBytes a bs).dt = s.dt := rfl
@[simp] theorem writeBytes_st (a : Nat) (bs : List Byte) : (s.writeBytes a bs).st = s.st := rfl
@[simp] theorem writeBytes_wait (a : Nat) (bs : List Byte) : (s.writeBytes a bs).wait = s.wait := rfl
@[simp] theorem writeBytes_drew (a : Nat) (bs : List Byte) : (s.writeBytes a bs).drew = s.drew := rfl
@[simp] theorem writeBytes_halt (a : Nat) (bs : List Byte) : (s.writeBytes a bs).halt = s.halt := rfl
@[simp] theorem writeBytes_event (a : Nat) (bs : List Byte) : (s.writeBytes a bs).event = s.event := rfl
@[simp] theorem writeBytes_ports (a : Nat) (bs : List Byte) : (s.writeBytes a bs).ports = s.ports := rfl
@[simp] theorem writeBytes_schedule (a : Nat) (bs : List Byte) : (s.writeBytes a bs).schedule = s.schedule := rfl
@[simp] theorem writeBytes_tickNo (a : Nat) (bs : List Byte) : (s.writeBytes a bs).tickNo = s.tickNo := rfl
@[simp] theorem writeBytes_config (a : Nat) (bs : List Byte) : (s.writeBytes a bs).config = s.config := rfl
@[simp] theorem writeBytes_reg (a : Nat) (bs : List Byte) (j : RegIx) : (s.writeBytes a bs).reg j = s.reg j := rfl
@[simp] theorem writeBytes_sp (a : Nat) (bs : List Byte) : (s.writeBytes a bs).sp = s.sp := rfl

/-! ### What the accessors read after their own updates -/

/-- R21: a write to `V[x]` changes no other register. -/
@[simp] theorem setReg_reg (x : RegIx) (b : Byte) (j : RegIx) :
    (s.setReg x b).reg j = if j = x then b else s.reg j := by
  simp only [reg, setReg, Vector.get_eq_getElem, Vector.getElem_set, Fin.ext_iff, eq_comm]

theorem setReg_reg_same (x : RegIx) (b : Byte) : (s.setReg x b).reg x = b := by simp

theorem setReg_reg_ne {x j : RegIx} (b : Byte) (h : j ≠ x) : (s.setReg x b).reg j = s.reg j := by
  simp [h]

@[simp] theorem resetWith_config (c : Config) : (State.resetWith c).config = c := rfl

@[simp] theorem setStack_sp (l : List Word) : (s.setStack l).sp = l.length := rfl

@[simp] theorem push_sp (a : Word) : (s.push a).sp = s.sp + 1 := rfl

@[simp] theorem writeBytes_readByte (a : Nat) (bs : List Byte) (c : Nat) :
    (s.writeBytes a bs).readByte c = Memory.readByte s.config (Memory.writeBytes s.config s.mem a bs) c := rfl

@[simp] theorem setFb_fbOut (f : FrameBuffer) (row : Fin 32) (col : Fin 64) :
    (s.setFb f).fbOut row col = FrameBuffer.cell f row col := rfl

end Sys2Proof.Machine.State
end

