-- ==== Sys2Proof/Laws/Display.lean ====
section
/-! SUPPORT. The framebuffer and the compositing loops of DRW (45_display.md): what one plot, one sprite
row and the rows of a sprite do to every cell and to the collision flag. -/

namespace Sys2Proof.Machine

open FrameBuffer

@[simp] theorem cell_blank (row : Fin 32) (col : Fin 64) : cell blank row col = false := by
  simp [cell, blank, Vector.get_eq_getElem]

/-- Flipping a cell changes that cell and no other. -/
theorem cell_flip (fb : FrameBuffer) (r row : Fin 32) (c col : Fin 64) :
    cell (FrameBuffer.flip fb r c) row col = (cell fb row col ^^ (decide (row = r) && decide (col = c))) := by
  simp only [cell, FrameBuffer.flip, Vector.get_eq_getElem, Vector.getElem_set]
  by_cases h : row = r
  · subst h
    simp [Fin.ext_iff, eq_comm]
  · have : r.val ≠ row.val := fun e => h (Fin.ext e.symm)
    simp [h, this]

theorem plot_fb (d : Drawing) (row : Fin 32) (col : Fin 64) :
    (plot d row col).1 = FrameBuffer.flip d.1 row col :=
  rfl

theorem plot_hit (d : Drawing) (row : Fin 32) (col : Fin 64) :
    (plot d row col).2 = (d.2 || cell d.1 row col) := rfl

/-! ## Where a sprite's rows and columns land (R162) -/

theorem colOffset_lt (ox : Nat) (col : Fin 64) : colOffset ox col < 64 := Nat.mod_lt _ (by decide)

theorem rowOffset_lt (oy : Nat) (row : Fin 32) : rowOffset oy row < 32 := Nat.mod_lt _ (by decide)

/-- Column `c` of the sprite lands on `col` exactly when `c` is `col`'s offset. -/
theorem eq_ofNat_iff_colOffset {ox c : Nat} (hc : c < 64) (col : Fin 64) :
    col = Fin.ofNat 64 (ox + c) ↔ colOffset ox col = c := by
  have := col.isLt
  simp only [Fin.ext_iff, Fin.ofNat, colOffset]
  omega

/-- Row `r` of the sprite lands on `row` exactly when `r` is `row`'s offset. -/
theorem eq_ofNat_iff_rowOffset {oy r : Nat} (hr : r < 32) (row : Fin 32) :
    row = Fin.ofNat 32 (oy + r) ↔ rowOffset oy row = r := by
  have := row.isLt
  simp only [Fin.ext_iff, Fin.ofNat, rowOffset]
  omega

/-! ## One sprite row -/

/-- The first `k` columns of a sprite row flip exactly the cells their set bits lie over. -/
theorem drawRow_cell (b : Byte) (r : Fin 32) (ox k : Nat) (hk : k ≤ 8) (d : Drawing) (row : Fin 32)
    (col : Fin 64) :
    cell (drawRow b r ox k d).1 row col =
      (cell d.1 row col ^^ (decide (row = r) && decide (colOffset ox col < k) &&
        b.getLsbD (7 - colOffset ox col))) := by
  induction k with
  | zero => simp [drawRow]
  | succ c ih =>
    have ih := ih (by omega)
    have hcol := eq_ofNat_iff_colOffset (ox := ox) (c := c) (by omega) col
    have hd : decide (col = Fin.ofNat 64 (ox + c)) = decide (colOffset ox col = c) := by
      simp only [hcol]
    unfold drawRow
    by_cases hb : b.getLsbD (7 - c) = true
    · rw [if_pos hb, plot_fb, cell_flip, ih, hd]
      by_cases hc : colOffset ox col = c
      · simp [hc, hb]
      · have : colOffset ox col < c + 1 ↔ colOffset ox col < c := by omega
        simp [hc, this]
    · rw [if_neg hb, ih]
      by_cases hc : colOffset ox col = c
      · simp [hc, Bool.eq_false_iff.mpr hb]
      · have : colOffset ox col < c + 1 ↔ colOffset ox col < c := by omega
        simp [this]

/-- The flag after the first `k` columns of a sprite row: set before, or a set bit over an on cell. -/
theorem drawRow_hit (b : Byte) (r : Fin 32) (ox k : Nat) (hk : k ≤ 8) (d : Drawing) :
    (drawRow b r ox k d).2 = true ↔
      d.2 = true ∨ ∃ col, colOffset ox col < k ∧ b.getLsbD (7 - colOffset ox col) = true ∧
        cell d.1 r col = true := by
  induction k with
  | zero => simp [drawRow]
  | succ c ih =>
    have ih := ih (by omega)
    have hoff : colOffset ox (Fin.ofNat 64 (ox + c)) = c :=
      (eq_ofNat_iff_colOffset (by omega) _).mp rfl
    unfold drawRow
    by_cases hb : b.getLsbD (7 - c) = true
    · rw [if_pos hb, plot_hit, Bool.or_eq_true, ih, drawRow_cell b r ox c (by omega), hoff]
      constructor
      · rintro ((h | ⟨col, h1, h2⟩) | h)
        · exact .inl h
        · exact .inr ⟨col, by omega, h2⟩
        · refine .inr ⟨Fin.ofNat 64 (ox + c), by omega, by rwa [hoff], ?_⟩
          simpa using h
      · rintro (h | ⟨col, h1, h2, h3⟩)
        · exact .inl (.inl h)
        · by_cases hc : colOffset ox col = c
          · rw [← (eq_ofNat_iff_colOffset (by omega) col).mpr hc]
            exact .inr (by simpa using h3)
          · exact .inl (.inr ⟨col, by omega, h2, h3⟩)
    · rw [if_neg hb, ih]
      constructor
      · rintro (h | ⟨col, h1, h2⟩)
        · exact .inl h
        · exact .inr ⟨col, by omega, h2⟩
      · rintro (h | ⟨col, h1, h2, h3⟩)
        · exact .inl h
        · have hc : colOffset ox col ≠ c := fun e => hb (e ▸ h2)
          exact .inr ⟨col, by omega, h2, h3⟩

/-! ## The rows of a sprite -/

/-- A set bit of the first `n` sprite rows over a cell. -/
def spriteOver (sprite : Nat → Byte) (ox oy n : Nat) (row : Fin 32) (col : Fin 64) : Bool :=
  decide (rowOffset oy row < n) && (decide (colOffset ox col < 8) &&
    (sprite (rowOffset oy row)).getLsbD (7 - colOffset ox col))

theorem State.spriteBit_eq (s : State) (x y : RegIx) (n : Nibble) (row : Fin 32) (col : Fin 64) :
    s.spriteBit x y n row col =
      spriteOver s.spriteRow (s.reg x).toNat (s.reg y).toNat n.toNat row col := by
  simp only [spriteBit, spriteOver, Bool.and_assoc]

/-- One more row covers the cells of that row and those covered before, never a cell twice. -/
theorem spriteOver_succ (sprite : Nat → Byte) (ox oy : Nat) {r : Nat} (hr : r < 32) (row : Fin 32)
    (col : Fin 64) :
    spriteOver sprite ox oy (r + 1) row col =
      if row = Fin.ofNat 32 (oy + r) then
        (decide (colOffset ox col < 8) && (sprite r).getLsbD (7 - colOffset ox col))
      else spriteOver sprite ox oy r row col := by
  have hrow := eq_ofNat_iff_rowOffset (oy := oy) hr row
  split
  · simp [spriteOver, hrow.mp ‹_›]
  · have h : rowOffset oy row ≠ r := fun e => ‹¬ _› (hrow.mpr e)
    have : rowOffset oy row < r + 1 ↔ rowOffset oy row < r := by omega
    simp [spriteOver, this]

theorem spriteOver_own_row (sprite : Nat → Byte) (ox oy : Nat) {r : Nat} (hr : r < 32) (col : Fin 64) :
    spriteOver sprite ox oy r (Fin.ofNat 32 (oy + r)) col = false := by
  have h : rowOffset oy (Fin.ofNat 32 (oy + r)) = r := (eq_ofNat_iff_rowOffset hr _).mp rfl
  simp only [spriteOver, h, Nat.lt_irrefl, decide_false, Bool.false_and]

/-- The first `n` rows of a sprite flip exactly the cells its set bits lie over (R161, R162). -/
theorem drawRows_cell (sprite : Nat → Byte) (ox oy n : Nat) (hn : n ≤ 32) (d : Drawing) (row : Fin 32)
    (col : Fin 64) :
    cell (drawRows sprite ox oy n d).1 row col =
      (cell d.1 row col ^^ spriteOver sprite ox oy n row col) := by
  induction n with
  | zero => simp [drawRows, spriteOver]
  | succ r ih =>
    rw [drawRows, drawRow_cell _ _ _ _ (Nat.le_refl 8), ih (by omega),
      spriteOver_succ sprite ox oy (by omega)]
    by_cases h : row = Fin.ofNat 32 (oy + r)
    · rw [if_pos h, h, spriteOver_own_row sprite ox oy (by omega)]
      simp
    · rw [if_neg h]
      simp only [h, decide_false, Bool.false_and, Bool.xor_false]

/-- The flag after the first `n` rows: set before, or a set sprite bit over a cell that was on before
the drawing (R161, R163). -/
theorem drawRows_hit (sprite : Nat → Byte) (ox oy n : Nat) (hn : n ≤ 32) (d : Drawing) :
    (drawRows sprite ox oy n d).2 = true ↔
      d.2 = true ∨ ∃ row col, spriteOver sprite ox oy n row col = true ∧ cell d.1 row col = true := by
  induction n with
  | zero => simp [drawRows, spriteOver]
  | succ r ih =>
    rw [drawRows, drawRow_hit _ _ _ _ (Nat.le_refl 8), ih (by omega)]
    simp only [drawRows_cell sprite ox oy r (by omega), spriteOver_own_row sprite ox oy (show r < 32 by omega),
      spriteOver_succ sprite ox oy (show r < 32 by omega), Bool.xor_false]
    constructor
    · rintro ((h | ⟨row, col, h1, h2⟩) | ⟨col, h1, h2, h3⟩)
      · exact .inl h
      · have hne : row ≠ Fin.ofNat 32 (oy + r) := by
          rintro rfl
          rw [spriteOver_own_row sprite ox oy (by omega)] at h1
          exact Bool.noConfusion h1
        exact .inr ⟨row, col, by rwa [if_neg hne], h2⟩
      · exact .inr ⟨_, col, by rw [if_pos rfl]; simp only [h1, h2, decide_true, Bool.and_self], h3⟩
    · rintro (h | ⟨row, col, h1, h2⟩)
      · exact .inl (.inl h)
      · by_cases h : row = Fin.ofNat 32 (oy + r)
        · rw [if_pos h, Bool.and_eq_true, decide_eq_true_eq] at h1
          exact .inr ⟨col, h1.1, h1.2, h ▸ h2⟩
        · rw [if_neg h] at h1
          exact .inl (.inr ⟨row, col, h1, h2⟩)

/-! ## The sprite DRW draws -/

/-- Every cell after the compositing of DRW (R161, R162). -/
theorem State.drawSprite_cell (s : State) (x y : RegIx) (n : Nibble) (row : Fin 32) (col : Fin 64) :
    cell (s.drawSprite x y n).1 row col = (s.fbOut row col ^^ s.spriteBit x y n row col) := by
  have hn := n.isLt
  rw [State.spriteBit_eq]
  exact drawRows_cell s.spriteRow _ _ n.toNat (by omega) (s.fb, false) row col

/-- The collision flag of DRW (R163). -/
theorem State.drawSprite_hit (s : State) (x y : RegIx) (n : Nibble) :
    (s.drawSprite x y n).2 = true ↔
      ∃ row col, s.spriteBit x y n row col = true ∧ s.fbOut row col = true := by
  have hn := n.isLt
  have h := drawRows_hit s.spriteRow (s.reg x).toNat (s.reg y).toNat n.toNat (by omega) (s.fb, false)
  simp only [Bool.false_eq_true, false_or] at h
  simp only [State.spriteBit_eq]
  exact h

end Sys2Proof.Machine
end

