-- ==== Sys2Proof/Laws/Exec.lean ====
section
/-! SUPPORT. What `exec` answers for each instruction, whatever the parameters in State.config: the equation
later proofs rewrite with instead of unfolding a meaning; then the spec lemmas of the shared operations. -/

namespace Sys2Proof.Machine

variable (s : State)

/-! ## Memory accesses (R52, D8) -/

@[simp] theorem accessAllowed_modulo (a n : Nat) : accessAllowed .modulo a n = true := rfl

/-- Under the alternative `ADDR_WRAP` an access is allowed when it accesses nothing or existing cells alone. -/
theorem accessAllowed_refuseAbove (a n : Nat) :
    accessAllowed .refuseAbove a n = true ↔ n = 0 ∨ a + n ≤ memSize := by
  simp [accessAllowed]

theorem guardAccess_allowed {p : AddrWrap} {a n : Nat} (r : Result)
    (h : accessAllowed p a n = true) : guardAccess p a n r = r := if_pos h

theorem guardAccess_refused {p : AddrWrap} {a n : Nat} (r : Result)
    (h : accessAllowed p a n = false) :
    guardAccess p a n r = .refused (.addressAbove4095 a n) := if_neg (by simp [h])

/-- A guarded access answers a next state exactly when it is allowed and what it guards does. -/
theorem guardAccess_eq_next {p : AddrWrap} {a n : Nat} {r : Result} {t : State} :
    guardAccess p a n r = .next t ↔ accessAllowed p a n = true ∧ r = .next t := by
  unfold guardAccess
  split <;> simp_all

/-- Under the defaults that never stop, every access is allowed. -/
theorem accessAllowed_of_neverStops {c : Config} (h : c.neverStops) (a n : Nat) :
    accessAllowed c.addrWrap a n = true := by
  rw [h.1]
  rfl

theorem fetchAllowed_of_neverStops (h : s.config.neverStops) : s.fetchAllowed = true :=
  accessAllowed_of_neverStops h _ _

theorem dataAllowed_of_neverStops (h : s.config.neverStops) (n : Nat) :
    s.dataAllowed n = true := accessAllowed_of_neverStops h _ n

/-! ## One equation per instruction -/

theorem exec_cls :
    exec .cls s = .next (((s.setFb FrameBuffer.blank).setDrew true).advance 2) := rfl

theorem exec_ret_empty (h : s.stack = []) :
    exec .ret s = .next (s.takeFault .stackUnderflow) := by
  simp [exec, execRet, h]

theorem exec_ret_cons {top : Word} {rest : List Word} (h : s.stack = top :: rest) :
    exec .ret s = .next ((s.setStack rest).setPc top) := by
  simp [exec, execRet, h]

theorem exec_sys (nnn : Addr12) :
    exec (.sys nnn) s = .next (s.sysOpcode s.config.sys s.config.invalidPc nnn) := rfl

theorem exec_jp (nnn : Addr12) :
    exec (.jp nnn) s = .next (s.setPc (zextAddr nnn)) := rfl

theorem exec_call_full (nnn : Addr12) (h : s.stackFull = true) :
    exec (.call nnn) s = .next (s.takeFault .stackOverflow) := if_pos h

theorem exec_call_room (nnn : Addr12) (h : s.stackFull = false) :
    exec (.call nnn) s = .next ((s.push (s.pc + 2)).setPc (zextAddr nnn)) :=
  if_neg (by simp [h])

theorem exec_seImm (x : RegIx) (kk : Byte) :
    exec (.seImm x kk) s = .next (s.advance (skipDistance (s.reg x == kk))) := rfl

theorem exec_sneImm (x : RegIx) (kk : Byte) :
    exec (.sneImm x kk) s = .next (s.advance (skipDistance (s.reg x != kk))) := rfl

theorem exec_seReg (x : RegIx) (y : RegIx) (z : Nibble) :
    exec (.seReg x y z) s = .next (s.advance (skipDistance (s.reg x == s.reg y))) := rfl

theorem exec_ldImm (x : RegIx) (kk : Byte) :
    exec (.ldImm x kk) s = .next ((s.setReg x kk).advance 2) := rfl

theorem exec_addImm (x : RegIx) (kk : Byte) :
    exec (.addImm x kk) s = .next ((s.setReg x (s.reg x + kk)).advance 2) := rfl

theorem exec_ldReg (x : RegIx) (y : RegIx) :
    exec (.ldReg x y) s = .next ((s.setReg x (s.reg y)).advance 2) := rfl

theorem exec_orReg (x : RegIx) (y : RegIx) :
    exec (.orReg x y) s = .next ((s.setReg x (s.reg x ||| s.reg y)).advance 2) := rfl

theorem exec_andReg (x : RegIx) (y : RegIx) :
    exec (.andReg x y) s = .next ((s.setReg x (s.reg x &&& s.reg y)).advance 2) := rfl

theorem exec_xorReg (x : RegIx) (y : RegIx) :
    exec (.xorReg x y) s = .next ((s.setReg x (s.reg x ^^^ s.reg y)).advance 2) := rfl

theorem exec_addReg (x : RegIx) (y : RegIx) :
    exec (.addReg x y) s = .next ((s.writeArith s.config.vfOrderArith x (s.reg x + s.reg y)
      (addCarry (s.reg x) (s.reg y))).advance 2) := rfl

theorem exec_subReg (x : RegIx) (y : RegIx) :
    exec (.subReg x y) s = .next ((s.writeArith s.config.vfOrderArith x (s.reg x - s.reg y)
      (noBorrow (s.reg x) (s.reg y))).advance 2) := rfl

theorem exec_shr (x : RegIx) (y : RegIx) :
    exec (.shr x y) s = .next ((s.writeShift s.config.vfOrderShift x outRight shiftRight).advance 2) := rfl

theorem exec_subn (x : RegIx) (y : RegIx) :
    exec (.subn x y) s = .next ((s.writeArith s.config.vfOrderArith x (s.reg y - s.reg x)
      (noBorrow (s.reg y) (s.reg x))).advance 2) := rfl

theorem exec_shl (x : RegIx) (y : RegIx) :
    exec (.shl x y) s = .next ((s.writeShift s.config.vfOrderShift x outLeft shiftLeft).advance 2) := rfl

theorem exec_sneReg (x : RegIx) (y : RegIx) (z : Nibble) :
    exec (.sneReg x y z) s = .next (s.advance (skipDistance (s.reg x != s.reg y))) := rfl

theorem exec_ldI (nnn : Addr12) :
    exec (.ldI nnn) s = .next ((s.setI (zextAddr nnn)).advance 2) := rfl

theorem exec_jpV0 (nnn : Addr12) :
    exec (.jpV0 nnn) s = .next (s.setPc (zextAddr nnn + zextByte (s.reg 0))) := rfl

theorem exec_rnd (x : RegIx) (kk : Byte) :
    exec (.rnd x kk) s = .next ((s.setReg x (s.ports.randByte &&& kk)).advance 2) := rfl

theorem exec_drw {x y : RegIx} {n : Nibble} (h : s.dataAllowed n.toNat = true) :
    exec (.drw x y n) s = .next ((((s.setFb (s.drawSprite x y n).1).setReg vf
      (flagByte (s.drawSprite x y n).2)).setDrew true).advance 2) := guardAccess_allowed _ h

theorem exec_drw_refused {x y : RegIx} {n : Nibble} (h : s.dataAllowed n.toNat = false) :
    exec (.drw x y n) s = .refused (.addressAbove4095 s.dataAddr n.toNat) := guardAccess_refused _ h

theorem exec_skp {x : RegIx} {k : KeyCode} (h : keyIndex s.config.keyIndex (s.reg x) = some k) :
    exec (.skp x) s = .next (s.advance (skipDistance (s.keyHeld k))) := by
  simp [exec, execSkp, h]

theorem exec_skp_fault {x : RegIx} (h : keyIndex s.config.keyIndex (s.reg x) = none) :
    exec (.skp x) s = .fault (.keyIndexAbove15 x) := by
  simp [exec, execSkp, h]

theorem exec_sknp {x : RegIx} {k : KeyCode} (h : keyIndex s.config.keyIndex (s.reg x) = some k) :
    exec (.sknp x) s = .next (s.advance (skipDistance (!s.keyHeld k))) := by
  simp [exec, execSknp, h]

theorem exec_sknp_fault {x : RegIx} (h : keyIndex s.config.keyIndex (s.reg x) = none) :
    exec (.sknp x) s = .fault (.keyIndexAbove15 x) := by
  simp [exec, execSknp, h]

theorem exec_ldVxDt (x : RegIx) :
    exec (.ldVxDt x) s = .next ((s.setReg x s.dt).advance 2) := rfl

theorem exec_ldVxK (x : RegIx) :
    exec (.ldVxK x) s = .next ((s.setWait (some x)).advance 2) := rfl

theorem exec_ldDtVx (x : RegIx) :
    exec (.ldDtVx x) s = .next ((s.setDt (s.reg x)).advance 2) := rfl

theorem exec_ldStVx (x : RegIx) :
    exec (.ldStVx x) s = .next (((s.setSt (s.reg x)).emit (.toneRequest
      (toneMs s.config.toneRounding (s.reg x)))).advance 2) := rfl

theorem exec_addI (x : RegIx) :
    exec (.addI x) s = .next ((s.setI (s.i + zextByte (s.reg x))).advance 2) := rfl

theorem exec_ldF {x : RegIx} {d : Nibble} (h : fontDigit s.config.fontDigit (s.reg x) = some d) :
    exec (.ldF x) s = .next ((s.setI (glyphAddr s.config.fontBase d)).advance 2) := by
  simp [exec, execLdF, h]

theorem exec_ldF_refused {x : RegIx} (h : fontDigit s.config.fontDigit (s.reg x) = none) :
    exec (.ldF x) s = .refused (.fontDigitAbove15 x) := by
  simp [exec, execLdF, h]

theorem exec_ldB {x : RegIx} (h : s.dataAllowed 3 = true) :
    exec (.ldB x) s = .next ((s.writeBytes s.dataAddr (bcdDigits (s.reg x))).advance 2) :=
  guardAccess_allowed _ h

theorem exec_ldB_refused {x : RegIx} (h : s.dataAllowed 3 = false) :
    exec (.ldB x) s = .refused (.addressAbove4095 s.dataAddr 3) := guardAccess_refused _ h

theorem exec_ldMemVx {x : RegIx} (h : s.dataAllowed (x.val + 1) = true) :
    exec (.ldMemVx x) s = .next ((s.writeBytes s.dataAddr (s.regsUpTo x)).advance 2) :=
  guardAccess_allowed _ h

theorem exec_ldMemVx_refused {x : RegIx} (h : s.dataAllowed (x.val + 1) = false) :
    exec (.ldMemVx x) s = .refused (.addressAbove4095 s.dataAddr (x.val + 1)) :=
  guardAccess_refused _ h

theorem exec_ldVxMem {x : RegIx} (h : s.dataAllowed (x.val + 1) = true) :
    exec (.ldVxMem x) s = .next ((s.loadRegs s.dataAddr (x.val + 1)).advance 2) :=
  guardAccess_allowed _ h

theorem exec_ldVxMem_refused {x : RegIx} (h : s.dataAllowed (x.val + 1) = false) :
    exec (.ldVxMem x) s = .refused (.addressAbove4095 s.dataAddr (x.val + 1)) :=
  guardAccess_refused _ h

theorem exec_invalid (w : Word) :
    exec (.invalid w) s = .next (s.unrecognizedOpcode s.config.invalidPc w) := rfl

/-! ## When an instruction that may stop answers a next state -/

theorem exec_skp_eq_next {x : RegIx} {t : State} : exec (.skp x) s = .next t ↔
    ∃ k, keyIndex s.config.keyIndex (s.reg x) = some k ∧
      t = s.advance (skipDistance (s.keyHeld k)) := by
  cases h : keyIndex s.config.keyIndex (s.reg x) with
  | none => simp [exec_skp_fault s h]
  | some k => simp [exec_skp s h, eq_comm]

theorem exec_sknp_eq_next {x : RegIx} {t : State} : exec (.sknp x) s = .next t ↔
    ∃ k, keyIndex s.config.keyIndex (s.reg x) = some k ∧
      t = s.advance (skipDistance (!s.keyHeld k)) := by
  cases h : keyIndex s.config.keyIndex (s.reg x) with
  | none => simp [exec_sknp_fault s h]
  | some k => simp [exec_sknp s h, eq_comm]

theorem exec_ldF_eq_next {x : RegIx} {t : State} : exec (.ldF x) s = .next t ↔
    ∃ d, fontDigit s.config.fontDigit (s.reg x) = some d ∧
      t = (s.setI (glyphAddr s.config.fontBase d)).advance 2 := by
  cases h : fontDigit s.config.fontDigit (s.reg x) with
  | none => simp [exec_ldF_refused s h]
  | some d => simp [exec_ldF s h, eq_comm]

theorem exec_drw_eq_next {x y : RegIx} {n : Nibble} {t : State} : exec (.drw x y n) s = .next t ↔
    s.dataAllowed n.toNat = true ∧ t = (((s.setFb (s.drawSprite x y n).1).setReg vf
      (flagByte (s.drawSprite x y n).2)).setDrew true).advance 2 := by
  cases h : s.dataAllowed n.toNat with
  | false => simp [exec_drw_refused s h]
  | true => simp [exec_drw s h, eq_comm]

theorem exec_ldB_eq_next {x : RegIx} {t : State} : exec (.ldB x) s = .next t ↔
    s.dataAllowed 3 = true ∧ t = (s.writeBytes s.dataAddr (bcdDigits (s.reg x))).advance 2 := by
  cases h : s.dataAllowed 3 with
  | false => simp [exec_ldB_refused s h]
  | true => simp [exec_ldB s h, eq_comm]

theorem exec_ldMemVx_eq_next {x : RegIx} {t : State} : exec (.ldMemVx x) s = .next t ↔
    s.dataAllowed (x.val + 1) = true ∧ t = (s.writeBytes s.dataAddr (s.regsUpTo x)).advance 2 := by
  cases h : s.dataAllowed (x.val + 1) with
  | false => simp [exec_ldMemVx_refused s h]
  | true => simp [exec_ldMemVx s h, eq_comm]

theorem exec_ldVxMem_eq_next {x : RegIx} {t : State} : exec (.ldVxMem x) s = .next t ↔
    s.dataAllowed (x.val + 1) = true ∧ t = (s.loadRegs s.dataAddr (x.val + 1)).advance 2 := by
  cases h : s.dataAllowed (x.val + 1) with
  | false => simp [exec_ldVxMem_refused s h]
  | true => simp [exec_ldVxMem s h, eq_comm]

/-! ## Operand forms (R84) -/

@[simp] theorem zextAddr_toNat (nnn : Addr12) : (zextAddr nnn).toNat = nnn.toNat := by
  have := nnn.isLt
  simp only [zextAddr, BitVec.toNat_setWidth]
  omega

@[simp] theorem zextByte_toNat (b : Byte) : (zextByte b).toNat = b.toNat := by
  have := b.isLt
  simp only [zextByte, BitVec.toNat_setWidth]
  omega

@[simp] theorem zextKey_toNat (k : KeyCode) : (zextKey k).toNat = k.toNat := by
  have := k.isLt
  simp only [zextKey, BitVec.toNat_setWidth]
  omega

/-- Each BCD digit is the byte the rule names (R152). -/
theorem bcdDigits_toNat (b : Byte) :
    (bcdDigits b).map (·.toNat) = [b.toNat / 100, b.toNat / 10 % 10, b.toNat % 10] := by
  have := b.isLt
  simp only [bcdDigits, List.map, BitVec.toNat_ofNat, List.cons.injEq, and_true]
  omega

@[simp] theorem keyIndex_low4 (v : Byte) : keyIndex .low4 v = some (v.extractLsb' 0 4) := rfl

@[simp] theorem fontDigit_low4 (v : Byte) : fontDigit .low4 v = some (v.extractLsb' 0 4) := rfl

theorem keyIndex_eq_some {p : KeyIndexPolicy} {v : Byte} (h : p = .low4 ∨ v.toNat ≤ 15) :
    keyIndex p v = some (v.extractLsb' 0 4) := by
  cases p <;> simp_all [keyIndex]

theorem fontDigit_eq_some {p : FontDigitPolicy} {v : Byte} (h : p = .low4 ∨ v.toNat ≤ 15) :
    fontDigit p v = some (v.extractLsb' 0 4) := by
  cases p <;> simp_all [fontDigit]

/-- The alternative key policy names no key exactly for a value above 15 (R176). -/
theorem keyIndex_faultAbove15_none (v : Byte) : keyIndex .faultAbove15 v = none ↔ 15 < v.toNat := by
  simp [keyIndex]

/-- The alternative digit policy names no digit exactly for a value above 15 (R155). -/
theorem fontDigit_refuseAbove15_none (v : Byte) :
    fontDigit .refuseAbove15 v = none ↔ 15 < v.toNat := by
  simp [fontDigit]

/-- The tone duration fits its port (R177). -/
theorem toneMs_toNat (b : Byte) : (toneMs .floor b).toNat = b.toNat * 1000 / 60 := by
  have := b.isLt
  simp only [toneMs, BitVec.toNat_ofNat]
  omega

/-! ## The order of result and flag (R127, R135) -/

/-- Register `j` after the two writes of ADD, SUB and SUBN, in either order. -/
theorem writeArith_reg (o : VfOrderArith) (x : RegIx) (r : Byte) (f : Bool) (j : RegIx) :
    (s.writeArith o x r f).reg j =
      if j = x ∧ (x ≠ vf ∨ o = .resultLast) then r else if j = vf then flagByte f else s.reg j := by
  cases o <;> by_cases hx : j = x <;> by_cases hv : j = vf <;> by_cases hxv : x = vf <;>
    simp_all [State.writeArith]

/-- Register `j` after the two writes of a shift of a register other than `VF`: the order is of no account. -/
theorem writeShift_reg (o : VfOrderShift) {x : RegIx} (hx : x ≠ vf) (out : Byte → Bool)
    (shift : Byte → Byte) (j : RegIx) :
    (s.writeShift o x out shift).reg j =
      if j = x then shift (s.reg x) else if j = vf then flagByte (out (s.reg x)) else s.reg j := by
  cases o <;> by_cases hj : j = x <;> by_cases hv : j = vf <;> simp_all [State.writeShift]

/-- `VF` after a shift of `VF` itself, in each order. -/
theorem writeShift_reg_vf (out : Byte → Bool) (shift : Byte → Byte) :
    (s.writeShift .sequential vf out shift).reg vf = shift (flagByte (out (s.reg vf))) ∧
    (s.writeShift .flagLast vf out shift).reg vf = flagByte (out (s.reg vf)) ∧
    (s.writeShift .resultLast vf out shift).reg vf = shift (s.reg vf) := by
  simp [State.writeShift]

/-- The two writes reach no register but `V[x]` and `VF`, in any order. -/
theorem writeArith_reg_ne (o : VfOrderArith) {x j : RegIx} (r : Byte) (f : Bool) (hx : j ≠ x)
    (hv : j ≠ vf) : (s.writeArith o x r f).reg j = s.reg j := by
  simp [writeArith_reg, hx, hv]

theorem writeShift_reg_ne (o : VfOrderShift) {x j : RegIx} (out : Byte → Bool) (shift : Byte → Byte)
    (hx : j ≠ x) (hv : j ≠ vf) : (s.writeShift o x out shift).reg j = s.reg j := by
  cases o <;> simp [State.writeShift, hx, hv]

@[simp] theorem writeArith_readByte (o : VfOrderArith) (x : RegIx) (r : Byte) (f : Bool) (c : Nat) :
    (s.writeArith o x r f).readByte c = s.readByte c := by cases o <;> rfl

@[simp] theorem writeShift_readByte (o : VfOrderShift) (x : RegIx) (out : Byte → Bool)
    (sh : Byte → Byte) (c : Nat) : (s.writeShift o x out sh).readByte c = s.readByte c := by
  cases o <;> rfl

/-! ### The fields the two writes leave alone -/

@[simp] theorem writeArith_mem (o : VfOrderArith) (x : RegIx) (r : Byte) (f : Bool) :
    (s.writeArith o x r f).mem = s.mem := by cases o <;> rfl

@[simp] theorem writeArith_i (o : VfOrderArith) (x : RegIx) (r : Byte) (f : Bool) :
    (s.writeArith o x r f).i = s.i := by cases o <;> rfl

@[simp] theorem writeArith_pc (o : VfOrderArith) (x : RegIx) (r : Byte) (f : Bool) :
    (s.writeArith o x r f).pc = s.pc := by cases o <;> rfl

@[simp] theorem writeArith_stack (o : VfOrderArith) (x : RegIx) (r : Byte) (f : Bool) :
    (s.writeArith o x r f).stack = s.stack := by cases o <;> rfl

@[simp] theorem writeArith_fb (o : VfOrderArith) (x : RegIx) (r : Byte) (f : Bool) :
    (s.writeArith o x r f).fb = s.fb := by cases o <;> rfl

@[simp] theorem writeArith_dt (o : VfOrderArith) (x : RegIx) (r : Byte) (f : Bool) :
    (s.writeArith o x r f).dt = s.dt := by cases o <;> rfl

@[simp] theorem writeArith_st (o : VfOrderArith) (x : RegIx) (r : Byte) (f : Bool) :
    (s.writeArith o x r f).st = s.st := by cases o <;> rfl

@[simp] theorem writeArith_wait (o : VfOrderArith) (x : RegIx) (r : Byte) (f : Bool) :
    (s.writeArith o x r f).wait = s.wait := by cases o <;> rfl

@[simp] theorem writeArith_drew (o : VfOrderArith) (x : RegIx) (r : Byte) (f : Bool) :
    (s.writeArith o x r f).drew = s.drew := by cases o <;> rfl

@[simp] theorem writeArith_halt (o : VfOrderArith) (x : RegIx) (r : Byte) (f : Bool) :
    (s.writeArith o x r f).halt = s.halt := by cases o <;> rfl

@[simp] theorem writeArith_event (o : VfOrderArith) (x : RegIx) (r : Byte) (f : Bool) :
    (s.writeArith o x r f).event = s.event := by cases o <;> rfl

@[simp] theorem writeArith_ports (o : VfOrderArith) (x : RegIx) (r : Byte) (f : Bool) :
    (s.writeArith o x r f).ports = s.ports := by cases o <;> rfl

@[simp] theorem writeArith_schedule (o : VfOrderArith) (x : RegIx) (r : Byte) (f : Bool) :
    (s.writeArith o x r f).schedule = s.schedule := by cases o <;> rfl

@[simp] theorem writeArith_tickNo (o : VfOrderArith) (x : RegIx) (r : Byte) (f : Bool) :
    (s.writeArith o x r f).tickNo = s.tickNo := by cases o <;> rfl

@[simp] theorem writeArith_config (o : VfOrderArith) (x : RegIx) (r : Byte) (f : Bool) :
    (s.writeArith o x r f).config = s.config := by cases o <;> rfl

@[simp] theorem writeShift_mem (o : VfOrderShift) (x : RegIx) (out : Byte → Bool) (sh : Byte → Byte) :
    (s.writeShift o x out sh).mem = s.mem := by cases o <;> rfl

@[simp] theorem writeShift_i (o : VfOrderShift) (x : RegIx) (out : Byte → Bool) (sh : Byte → Byte) :
    (s.writeShift o x out sh).i = s.i := by cases o <;> rfl

@[simp] theorem writeShift_pc (o : VfOrderShift) (x : RegIx) (out : Byte → Bool) (sh : Byte → Byte) :
    (s.writeShift o x out sh).pc = s.pc := by cases o <;> rfl

@[simp] theorem writeShift_stack (o : VfOrderShift) (x : RegIx) (out : Byte → Bool) (sh : Byte → Byte) :
    (s.writeShift o x out sh).stack = s.stack := by cases o <;> rfl

@[simp] theorem writeShift_fb (o : VfOrderShift) (x : RegIx) (out : Byte → Bool) (sh : Byte → Byte) :
    (s.writeShift o x out sh).fb = s.fb := by cases o <;> rfl

@[simp] theorem writeShift_dt (o : VfOrderShift) (x : RegIx) (out : Byte → Bool) (sh : Byte → Byte) :
    (s.writeShift o x out sh).dt = s.dt := by cases o <;> rfl

@[simp] theorem writeShift_st (o : VfOrderShift) (x : RegIx) (out : Byte → Bool) (sh : Byte → Byte) :
    (s.writeShift o x out sh).st = s.st := by cases o <;> rfl

@[simp] theorem writeShift_wait (o : VfOrderShift) (x : RegIx) (out : Byte → Bool) (sh : Byte → Byte) :
    (s.writeShift o x out sh).wait = s.wait := by cases o <;> rfl

@[simp] theorem writeShift_drew (o : VfOrderShift) (x : RegIx) (out : Byte → Bool) (sh : Byte → Byte) :
    (s.writeShift o x out sh).drew = s.drew := by cases o <;> rfl

@[simp] theorem writeShift_halt (o : VfOrderShift) (x : RegIx) (out : Byte → Bool) (sh : Byte → Byte) :
    (s.writeShift o x out sh).halt = s.halt := by cases o <;> rfl

@[simp] theorem writeShift_event (o : VfOrderShift) (x : RegIx) (out : Byte → Bool) (sh : Byte → Byte) :
    (s.writeShift o x out sh).event = s.event := by cases o <;> rfl

@[simp] theorem writeShift_ports (o : VfOrderShift) (x : RegIx) (out : Byte → Bool) (sh : Byte → Byte) :
    (s.writeShift o x out sh).ports = s.ports := by cases o <;> rfl

@[simp] theorem writeShift_schedule (o : VfOrderShift) (x : RegIx) (out : Byte → Bool) (sh : Byte → Byte) :
    (s.writeShift o x out sh).schedule = s.schedule := by cases o <;> rfl

@[simp] theorem writeShift_tickNo (o : VfOrderShift) (x : RegIx) (out : Byte → Bool) (sh : Byte → Byte) :
    (s.writeShift o x out sh).tickNo = s.tickNo := by cases o <;> rfl

@[simp] theorem writeShift_config (o : VfOrderShift) (x : RegIx) (out : Byte → Bool) (sh : Byte → Byte) :
    (s.writeShift o x out sh).config = s.config := by cases o <;> rfl

/-! ## An unrecognized opcode and SYS (R185, R186) -/

@[simp] theorem unrecognizedOpcode_stay (w : Word) :
    s.unrecognizedOpcode .stay w = s.emit (.invalidOpcode w s.pc) := rfl

@[simp] theorem unrecognizedOpcode_advance2 (w : Word) :
    s.unrecognizedOpcode .advance2 w = (s.emit (.invalidOpcode w s.pc)).advance 2 := rfl

@[simp] theorem unrecognizedOpcode_event (o : InvalidPcPolicy) (w : Word) :
    (s.unrecognizedOpcode o w).event = some (.invalidOpcode w s.pc) := by cases o <;> rfl

theorem unrecognizedOpcode_pc (o : InvalidPcPolicy) (w : Word) :
    (s.unrecognizedOpcode o w).pc = if o = .advance2 then s.pc + 2 else s.pc := by cases o <;> rfl

@[simp] theorem unrecognizedOpcode_reg (o : InvalidPcPolicy) (w : Word) (j : RegIx) :
    (s.unrecognizedOpcode o w).reg j = s.reg j := by cases o <;> rfl

@[simp] theorem unrecognizedOpcode_readByte (o : InvalidPcPolicy) (w : Word) (c : Nat) :
    (s.unrecognizedOpcode o w).readByte c = s.readByte c := by cases o <;> rfl

@[simp] theorem unrecognizedOpcode_mem (o : InvalidPcPolicy) (w : Word) :
    (s.unrecognizedOpcode o w).mem = s.mem := by cases o <;> rfl

@[simp] theorem unrecognizedOpcode_v (o : InvalidPcPolicy) (w : Word) :
    (s.unrecognizedOpcode o w).v = s.v := by cases o <;> rfl

@[simp] theorem unrecognizedOpcode_i (o : InvalidPcPolicy) (w : Word) :
    (s.unrecognizedOpcode o w).i = s.i := by cases o <;> rfl

@[simp] theorem unrecognizedOpcode_stack (o : InvalidPcPolicy) (w : Word) :
    (s.unrecognizedOpcode o w).stack = s.stack := by cases o <;> rfl

@[simp] theorem unrecognizedOpcode_fb (o : InvalidPcPolicy) (w : Word) :
    (s.unrecognizedOpcode o w).fb = s.fb := by cases o <;> rfl

@[simp] theorem unrecognizedOpcode_dt (o : InvalidPcPolicy) (w : Word) :
    (s.unrecognizedOpcode o w).dt = s.dt := by cases o <;> rfl

@[simp] theorem unrecognizedOpcode_st (o : InvalidPcPolicy) (w : Word) :
    (s.unrecognizedOpcode o w).st = s.st := by cases o <;> rfl

@[simp] theorem unrecognizedOpcode_wait (o : InvalidPcPolicy) (w : Word) :
    (s.unrecognizedOpcode o w).wait = s.wait := by cases o <;> rfl

@[simp] theorem unrecognizedOpcode_drew (o : InvalidPcPolicy) (w : Word) :
    (s.unrecognizedOpcode o w).drew = s.drew := by cases o <;> rfl

@[simp] theorem unrecognizedOpcode_halt (o : InvalidPcPolicy) (w : Word) :
    (s.unrecognizedOpcode o w).halt = s.halt := by cases o <;> rfl

@[simp] theorem unrecognizedOpcode_ports (o : InvalidPcPolicy) (w : Word) :
    (s.unrecognizedOpcode o w).ports = s.ports := by cases o <;> rfl

@[simp] theorem unrecognizedOpcode_schedule (o : InvalidPcPolicy) (w : Word) :
    (s.unrecognizedOpcode o w).schedule = s.schedule := by cases o <;> rfl

@[simp] theorem unrecognizedOpcode_tickNo (o : InvalidPcPolicy) (w : Word) :
    (s.unrecognizedOpcode o w).tickNo = s.tickNo := by cases o <;> rfl

@[simp] theorem unrecognizedOpcode_config (o : InvalidPcPolicy) (w : Word) :
    (s.unrecognizedOpcode o w).config = s.config := by cases o <;> rfl

@[simp] theorem sysOpcode_ignore (q : InvalidPcPolicy) (nnn : Addr12) :
    s.sysOpcode .ignore q nnn = s.advance 2 := rfl

@[simp] theorem sysOpcode_asInvalid (q : InvalidPcPolicy) (nnn : Addr12) :
    s.sysOpcode .asInvalid q nnn = s.unrecognizedOpcode q (encode (.sys nnn)) := rfl

@[simp] theorem sysOpcode_mem (p : SysPolicy) (q : InvalidPcPolicy) (nnn : Addr12) :
    (s.sysOpcode p q nnn).mem = s.mem := by cases p <;> simp

@[simp] theorem sysOpcode_v (p : SysPolicy) (q : InvalidPcPolicy) (nnn : Addr12) :
    (s.sysOpcode p q nnn).v = s.v := by cases p <;> simp

@[simp] theorem sysOpcode_i (p : SysPolicy) (q : InvalidPcPolicy) (nnn : Addr12) :
    (s.sysOpcode p q nnn).i = s.i := by cases p <;> simp

@[simp] theorem sysOpcode_stack (p : SysPolicy) (q : InvalidPcPolicy) (nnn : Addr12) :
    (s.sysOpcode p q nnn).stack = s.stack := by cases p <;> simp

@[simp] theorem sysOpcode_fb (p : SysPolicy) (q : InvalidPcPolicy) (nnn : Addr12) :
    (s.sysOpcode p q nnn).fb = s.fb := by cases p <;> simp

@[simp] theorem sysOpcode_dt (p : SysPolicy) (q : InvalidPcPolicy) (nnn : Addr12) :
    (s.sysOpcode p q nnn).dt = s.dt := by cases p <;> simp

@[simp] theorem sysOpcode_st (p : SysPolicy) (q : InvalidPcPolicy) (nnn : Addr12) :
    (s.sysOpcode p q nnn).st = s.st := by cases p <;> simp

@[simp] theorem sysOpcode_wait (p : SysPolicy) (q : InvalidPcPolicy) (nnn : Addr12) :
    (s.sysOpcode p q nnn).wait = s.wait := by cases p <;> simp

@[simp] theorem sysOpcode_drew (p : SysPolicy) (q : InvalidPcPolicy) (nnn : Addr12) :
    (s.sysOpcode p q nnn).drew = s.drew := by cases p <;> simp

@[simp] theorem sysOpcode_halt (p : SysPolicy) (q : InvalidPcPolicy) (nnn : Addr12) :
    (s.sysOpcode p q nnn).halt = s.halt := by cases p <;> simp

@[simp] theorem sysOpcode_ports (p : SysPolicy) (q : InvalidPcPolicy) (nnn : Addr12) :
    (s.sysOpcode p q nnn).ports = s.ports := by cases p <;> simp

@[simp] theorem sysOpcode_schedule (p : SysPolicy) (q : InvalidPcPolicy) (nnn : Addr12) :
    (s.sysOpcode p q nnn).schedule = s.schedule := by cases p <;> simp

@[simp] theorem sysOpcode_tickNo (p : SysPolicy) (q : InvalidPcPolicy) (nnn : Addr12) :
    (s.sysOpcode p q nnn).tickNo = s.tickNo := by cases p <;> simp

@[simp] theorem sysOpcode_config (p : SysPolicy) (q : InvalidPcPolicy) (nnn : Addr12) :
    (s.sysOpcode p q nnn).config = s.config := by cases p <;> simp

@[simp] theorem sysOpcode_reg (p : SysPolicy) (q : InvalidPcPolicy) (nnn : Addr12) (j : RegIx) :
    (s.sysOpcode p q nnn).reg j = s.reg j := by cases p <;> simp

@[simp] theorem sysOpcode_readByte (p : SysPolicy) (q : InvalidPcPolicy) (nnn : Addr12) (c : Nat) :
    (s.sysOpcode p q nnn).readByte c = s.readByte c := by cases p <;> simp

/-! ## The call stack (R26) -/

theorem stackFull_iff : s.stackFull = true ↔ s.config.stackDepth ≤ s.sp := by
  simp [State.stackFull]

theorem stackFull_eq_false_iff : s.stackFull = false ↔ s.sp < s.config.stackDepth := by
  simp [State.stackFull]

/-- A push puts the new entry on top and leaves the entries below where they were. -/
theorem push_stackEntry (a : Word) (k : Nat) :
    (s.push a).stackEntry k = if k = s.sp then some a else s.stackEntry k := by
  have hsp : s.sp = s.stack.length := rfl
  simp only [State.stackEntry, State.push_stack, List.reverse_cons]
  rcases Nat.lt_trichotomy k s.sp with h | h | h
  · rw [List.getElem?_append_left (by simpa [← hsp] using h), if_neg (by omega)]
  · subst h
    simp [hsp]
  · rw [if_neg (by omega), List.getElem?_eq_none (by simp; omega),
      List.getElem?_eq_none (by simp; omega)]

/-- A pop leaves the entries below the top where they were. -/
theorem pop_stackEntry {top : Word} {rest : List Word} (h : s.stack = top :: rest) {k : Nat}
    (hk : k < rest.length) : (s.setStack rest).stackEntry k = s.stackEntry k := by
  rw [State.stackEntry, State.stackEntry, h, List.reverse_cons,
    List.getElem?_append_left (by simpa using hk)]
  rfl

theorem top_stackEntry {top : Word} {rest : List Word} (h : s.stack = top :: rest) :
    s.stackEntry rest.length = some top := by
  simp [State.stackEntry, h]

/-! ## Bulk transfers (R153, R154) -/

@[simp] theorem regsUpTo_length (x : RegIx) : (s.regsUpTo x).length = x.val + 1 := by
  simp [State.regsUpTo]

theorem regsUpTo_getElem (x : RegIx) (k : RegIx) (h : k.val < (s.regsUpTo x).length) :
    (s.regsUpTo x)[k.val] = s.reg k := by
  simp [State.regsUpTo]

/-- A bulk load changes the register file and nothing else. -/
theorem loadRegs_eq (a k : Nat) : ∃ w, s.loadRegs a k = { s with v := w } := by
  induction k with
  | zero => exact ⟨s.v, rfl⟩
  | succ k ih =>
    obtain ⟨w, hw⟩ := ih
    exact ⟨_, by rw [State.loadRegs, hw]; rfl⟩

/-- Register `j` after a bulk load of the first `k` registers. -/
theorem loadRegs_reg (a k : Nat) (hk : k ≤ 16) (j : RegIx) :
    (s.loadRegs a k).reg j = if j.val < k then s.readByte (a + j.val) else s.reg j := by
  induction k with
  | zero => simp [State.loadRegs]
  | succ k ih =>
    have hval : (Fin.ofNat 16 k).val = k := Nat.mod_eq_of_lt (by omega)
    rw [State.loadRegs, State.setReg_reg, ih (by omega)]
    by_cases h : j = Fin.ofNat 16 k
    · have hj : j.val = k := h ▸ hval
      rw [if_pos h, if_pos (by omega), hj]
    · have hj : j.val ≠ k := fun e => h (Fin.ext (e.trans hval.symm))
      by_cases hlt : j.val < k
      · rw [if_neg h, if_pos hlt, if_pos (by omega)]
      · rw [if_neg h, if_neg hlt, if_neg (by omega)]

section LoadRegs

variable (a k : Nat)

@[simp] theorem loadRegs_mem : (s.loadRegs a k).mem = s.mem := by
  obtain ⟨w, hw⟩ := loadRegs_eq s a k
  rw [hw]

@[simp] theorem loadRegs_i : (s.loadRegs a k).i = s.i := by
  obtain ⟨w, hw⟩ := loadRegs_eq s a k
  rw [hw]

@[simp] theorem loadRegs_pc : (s.loadRegs a k).pc = s.pc := by
  obtain ⟨w, hw⟩ := loadRegs_eq s a k
  rw [hw]

@[simp] theorem loadRegs_stack : (s.loadRegs a k).stack = s.stack := by
  obtain ⟨w, hw⟩ := loadRegs_eq s a k
  rw [hw]

@[simp] theorem loadRegs_fb : (s.loadRegs a k).fb = s.fb := by
  obtain ⟨w, hw⟩ := loadRegs_eq s a k
  rw [hw]

@[simp] theorem loadRegs_dt : (s.loadRegs a k).dt = s.dt := by
  obtain ⟨w, hw⟩ := loadRegs_eq s a k
  rw [hw]

@[simp] theorem loadRegs_st : (s.loadRegs a k).st = s.st := by
  obtain ⟨w, hw⟩ := loadRegs_eq s a k
  rw [hw]

@[simp] theorem loadRegs_wait : (s.loadRegs a k).wait = s.wait := by
  obtain ⟨w, hw⟩ := loadRegs_eq s a k
  rw [hw]

@[simp] theorem loadRegs_drew : (s.loadRegs a k).drew = s.drew := by
  obtain ⟨w, hw⟩ := loadRegs_eq s a k
  rw [hw]

@[simp] theorem loadRegs_halt : (s.loadRegs a k).halt = s.halt := by
  obtain ⟨w, hw⟩ := loadRegs_eq s a k
  rw [hw]

@[simp] theorem loadRegs_event : (s.loadRegs a k).event = s.event := by
  obtain ⟨w, hw⟩ := loadRegs_eq s a k
  rw [hw]

@[simp] theorem loadRegs_ports : (s.loadRegs a k).ports = s.ports := by
  obtain ⟨w, hw⟩ := loadRegs_eq s a k
  rw [hw]

@[simp] theorem loadRegs_schedule : (s.loadRegs a k).schedule = s.schedule := by
  obtain ⟨w, hw⟩ := loadRegs_eq s a k
  rw [hw]

@[simp] theorem loadRegs_tickNo : (s.loadRegs a k).tickNo = s.tickNo := by
  obtain ⟨w, hw⟩ := loadRegs_eq s a k
  rw [hw]

@[simp] theorem loadRegs_config : (s.loadRegs a k).config = s.config := by
  obtain ⟨w, hw⟩ := loadRegs_eq s a k
  rw [hw]

@[simp] theorem loadRegs_readByte (c : Nat) : (s.loadRegs a k).readByte c = s.readByte c := by
  simp [State.readByte]

end LoadRegs

/-! ## Timers (R200, R201) -/

@[simp] theorem countDown_not_due (t : Byte) : countDown false t = t := by simp [countDown]

@[simp] theorem countDown_zero (due : Bool) : countDown due 0 = 0 := rfl

/-- A due timer that is not zero goes down by exactly one; no timer wraps. -/
theorem countDown_toNat (due : Bool) (t : Byte) :
    (countDown due t).toNat = if due then t.toNat - 1 else t.toNat := by
  cases due with
  | false => simp
  | true =>
    by_cases h : t = 0
    · subst h
      rfl
    · have hpos : 0 < t.toNat := Nat.pos_of_ne_zero fun e => h (BitVec.eq_of_toNat_eq (by simpa using e))
      have hlt := t.isLt
      simp only [countDown, Bool.and_true, bne_iff_ne.mpr h, if_true, BitVec.toNat_sub]
      simp only [BitVec.ofNat_eq_ofNat, BitVec.toNat_ofNat]
      omega

/-! ## The parameters (R8) -/

/-- No operation changes the machine's parameters. -/
theorem exec_config {i : Instr} {t : State} (h : exec i s = .next t) : t.config = s.config := by
  cases i with
  | ret =>
    cases hs : s.stack with
    | nil => rw [exec_ret_empty s hs] at h; cases h; rfl
    | cons top rest => rw [exec_ret_cons s hs] at h; cases h; rfl
  | call nnn =>
    cases hf : s.stackFull with
    | true => rw [exec_call_full s nnn hf] at h; cases h; rfl
    | false => rw [exec_call_room s nnn hf] at h; cases h; rfl
  | skp x => obtain ⟨k, -, rfl⟩ := (exec_skp_eq_next s).mp h; rfl
  | sknp x => obtain ⟨k, -, rfl⟩ := (exec_sknp_eq_next s).mp h; rfl
  | ldF x => obtain ⟨d, -, rfl⟩ := (exec_ldF_eq_next s).mp h; rfl
  | drw x y n => obtain ⟨-, rfl⟩ := (exec_drw_eq_next s).mp h; rfl
  | ldB x => obtain ⟨-, rfl⟩ := (exec_ldB_eq_next s).mp h; rfl
  | ldMemVx x => obtain ⟨-, rfl⟩ := (exec_ldMemVx_eq_next s).mp h; rfl
  | ldVxMem x => obtain ⟨-, rfl⟩ := (exec_ldVxMem_eq_next s).mp h; simp
  | sys nnn => cases (exec_sys s nnn).symm.trans h; simp
  | invalid w => cases (exec_invalid s w).symm.trans h; simp
  | addReg x y => cases (exec_addReg s x y).symm.trans h; simp
  | subReg x y => cases (exec_subReg s x y).symm.trans h; simp
  | subn x y => cases (exec_subn s x y).symm.trans h; simp
  | shr x y => cases (exec_shr s x y).symm.trans h; simp
  | shl x y => cases (exec_shl s x y).symm.trans h; simp
  | cls | jp | seImm | sneImm | seReg | ldImm | addImm | ldReg | orReg | andReg | xorReg | sneReg | ldI
  | jpV0 | rnd | ldVxDt | ldVxK | ldDtVx | ldStVx | addI => cases h; rfl

end Sys2Proof.Machine
end

