-- ==== Sys2Proof/Laws/Memory.lean ====
section
/-! SUPPORT. Memory: what a read gives after a write, that every write keeps the canonical form, and that
canonical memories that read alike are equal. -/

namespace Sys2Proof.Machine.Memory

variable {cfg : Config}

/-! ## Cells -/

@[simp] theorem read_nil (a : Nat) : read cfg [] a = unlisted cfg a := rfl

theorem read_cons (b : Nat) (w : Byte) (m : Memory) (a : Nat) :
    read cfg ((b, w) :: m) a = if a = b then w else read cfg m a := rfl

/-- A cell that is not listed reads as its reset contents. -/
theorem read_unlisted {m : Memory} {a : Nat} (h : ∀ c ∈ m, c.1 ≠ a) : read cfg m a = unlisted cfg a := by
  induction m with
  | nil => rfl
  | cons c m ih =>
    have hc : ¬ a = c.1 := fun e => h c (by simp) e.symm
    rw [show c = (c.1, c.2) from rfl, read_cons, if_neg hc]
    exact ih fun d hd => h d (by simp [hd])

/-- A cons of a cell onto a list that does not hold it. -/
theorem read_consCell_same {a : Nat} {v : Byte} {m : Memory} (h : ∀ c ∈ m, c.1 ≠ a) :
    read cfg (consCell cfg a v m) a = v := by
  unfold consCell
  split
  · rw [read_unlisted h, ‹v = _›]
  · simp [read_cons]

theorem read_consCell_ne {a b : Nat} (v : Byte) (m : Memory) (h : b ≠ a) :
    read cfg (consCell cfg a v m) b = read cfg m b := by
  unfold consCell
  split
  · rfl
  · simp [read_cons, h]

/-- A write leaves every other cell alone, whatever the list. -/
theorem read_write_ne {a b : Nat} (m : Memory) (v : Byte) (h : b ≠ a) :
    read cfg (write cfg m a v) b = read cfg m b := by
  induction m with
  | nil => exact read_consCell_ne v [] h
  | cons c m ih =>
    obtain ⟨k, w⟩ := c
    unfold write
    split
    · exact read_consCell_ne v _ h
    · split
      · subst_vars
        rw [read_consCell_ne v _ h, read_cons, if_neg h]
      · rw [read_cons, read_cons, ih]

theorem mem_consCell {a : Nat} {v : Byte} {m : Memory} {c : Host.Cell} (h : c ∈ consCell cfg a v m) :
    (c = (a, v) ∧ v ≠ unlisted cfg a) ∨ c ∈ m := by
  unfold consCell at h
  split at h
  · exact .inr h
  · rcases List.mem_cons.mp h with h | h
    · exact .inl ⟨h, ‹_›⟩
    · exact .inr h

theorem mem_write {a : Nat} {v : Byte} {m : Memory} {c : Host.Cell} (h : c ∈ write cfg m a v) :
    (c = (a, v) ∧ v ≠ unlisted cfg a) ∨ c ∈ m := by
  induction m with
  | nil => exact mem_consCell h
  | cons d m ih =>
    unfold write at h
    split at h
    · exact mem_consCell h
    · split at h
      · exact (mem_consCell h).imp_right (List.mem_cons_of_mem _)
      · rcases List.mem_cons.mp h with h | h
        · exact .inr (h ▸ List.mem_cons_self)
        · exact (ih h).imp_right (List.mem_cons_of_mem _)

theorem pairwise_consCell {a : Nat} {v : Byte} {m : Memory}
    (hm : m.Pairwise fun c d => c.1 < d.1) (ha : ∀ c ∈ m, a < c.1) :
    (consCell cfg a v m).Pairwise fun c d => c.1 < d.1 := by
  unfold consCell
  split
  · exact hm
  · exact List.pairwise_cons.mpr ⟨ha, hm⟩

theorem pairwise_write {m : Memory} (a : Nat) (v : Byte) (hm : m.Pairwise fun c d => c.1 < d.1) :
    (write cfg m a v).Pairwise fun c d => c.1 < d.1 := by
  induction m with
  | nil => exact pairwise_consCell .nil (by simp)
  | cons d m ih =>
    obtain ⟨k, w⟩ := d
    obtain ⟨hd, hm⟩ := List.pairwise_cons.mp hm
    unfold write
    split
    · refine pairwise_consCell (List.pairwise_cons.mpr ⟨hd, hm⟩) ?_
      intro c hc
      rcases List.mem_cons.mp hc with rfl | hc
      · assumption
      · exact Nat.lt_trans ‹a < k› (hd c hc)
    · split
      · subst_vars
        exact pairwise_consCell hm hd
      · refine List.pairwise_cons.mpr ⟨fun c hc => ?_, ih hm⟩
        rcases mem_write hc with ⟨rfl, -⟩ | hc
        · show k < a
          omega
        · exact hd c hc

/-- A write of a cell of memory keeps the canonical form. -/
theorem wf_write {m : Memory} {a : Nat} (v : Byte) (hm : wf cfg m) (ha : a < memSize) :
    wf cfg (write cfg m a v) := by
  refine ⟨pairwise_write a v hm.1, fun c hc => ?_⟩
  rcases mem_write hc with ⟨rfl, hv⟩ | hc
  · exact ⟨ha, hv⟩
  · exact hm.2 c hc

theorem read_write_same_of_pairwise {m : Memory} (a : Nat) (v : Byte)
    (hm : m.Pairwise fun c d => c.1 < d.1) : read cfg (write cfg m a v) a = v := by
  induction m with
  | nil => exact read_consCell_same (by simp)
  | cons d m ih =>
    obtain ⟨k, w⟩ := d
    obtain ⟨hd, hm⟩ := List.pairwise_cons.mp hm
    unfold write
    split
    · refine read_consCell_same fun c hc => ?_
      rcases List.mem_cons.mp hc with rfl | hc
      · show k ≠ a
        omega
      · have := hd c hc
        omega
    · split
      · subst_vars
        exact read_consCell_same fun c hc => Nat.ne_of_gt (hd c hc)
      · rw [read_cons, if_neg ‹¬ a = k›, ih hm]

/-- A read after a write to the same cell gives the value written. -/
theorem read_write_same {m : Memory} (a : Nat) (v : Byte) (hm : wf cfg m) :
    read cfg (write cfg m a v) a = v :=
  read_write_same_of_pairwise a v hm.1

/-- The canonical form lists a cell exactly when it differs from its reset contents. -/
theorem read_eq_of_mem {m : Memory} {c : Host.Cell} (hm : m.Pairwise fun c d => c.1 < d.1)
    (hc : c ∈ m) : read cfg m c.1 = c.2 := by
  induction m with
  | nil => simp at hc
  | cons d m ih =>
    obtain ⟨hd, hm⟩ := List.pairwise_cons.mp hm
    rw [show d = (d.1, d.2) from rfl, read_cons]
    rcases List.mem_cons.mp hc with rfl | hc
    · simp
    · rw [if_neg (Nat.ne_of_gt (hd c hc)), ih hm hc]

/-- Canonical memories that read alike at every address are equal: equal memories are equal data. -/
theorem ext_of_read {m n : Memory} (hm : wf cfg m) (hn : wf cfg n) (h : ∀ a, read cfg m a = read cfg n a) : m = n := by
  induction m generalizing n with
  | nil =>
    cases n with
    | nil => rfl
    | cons d n =>
      have hd := h d.1
      rw [show d = (d.1, d.2) from rfl, read_cons, if_pos rfl] at hd
      exact absurd hd.symm (hn.2 d (by simp)).2
  | cons c m ih =>
    cases n with
    | nil =>
      have hc := h c.1
      rw [show c = (c.1, c.2) from rfl, read_cons, if_pos rfl] at hc
      exact absurd hc (hm.2 c (by simp)).2
    | cons d n =>
      obtain ⟨hc, hmt⟩ := List.pairwise_cons.mp hm.1
      obtain ⟨hd, hnt⟩ := List.pairwise_cons.mp hn.1
      have key : c = d := by
        have h1 := h c.1
        have h2 := h d.1
        rw [show c = (c.1, c.2) from rfl, show d = (d.1, d.2) from rfl] at h1 h2
        simp only [read_cons, if_true] at h1 h2
        rcases Nat.lt_trichotomy c.1 d.1 with hlt | heq | hlt
        · rw [if_neg (by omega), read_unlisted fun e he => by have := hd e he; omega] at h1
          exact absurd h1 (hm.2 c (by simp)).2
        · rw [if_pos heq] at h1
          exact Prod.ext heq h1
        · rw [if_neg (by omega), read_unlisted fun e he => by have := hc e he; omega] at h2
          exact absurd h2.symm (hn.2 d (by simp)).2
      subst key
      refine congrArg (c :: ·) (ih ⟨hmt, fun e he => hm.2 e (by simp [he])⟩
        ⟨hnt, fun e he => hn.2 e (by simp [he])⟩ fun a => ?_)
      have ha := h a
      rw [show c = (c.1, c.2) from rfl, read_cons, read_cons] at ha
      by_cases e : a = c.1
      · rw [read_unlisted fun b hb => by have := hc b hb; omega,
          read_unlisted fun b hb => by have := hd b hb; omega]
      · rwa [if_neg e, if_neg e] at ha
/-! ## Addresses and byte accesses (R52) -/

theorem wrapAddr_lt (a : Nat) : wrapAddr a < memSize := Nat.mod_lt _ (by decide)

@[simp] theorem wrapAddr_wrapAddr (a : Nat) : wrapAddr (wrapAddr a) = wrapAddr a :=
  Nat.mod_mod _ _

theorem wrapAddr_of_lt {a : Nat} (h : a < memSize) : wrapAddr a = a := Nat.mod_eq_of_lt h

/-- Fewer than 4096 consecutive addresses name different cells. -/
theorem wrapAddr_add_ne {a j k : Nat} (hj : j < memSize) (hk : k < memSize) (h : j ≠ k) :
    wrapAddr (a + j) ≠ wrapAddr (a + k) := by
  simp only [wrapAddr, memSize] at *
  omega

theorem readByte_writeByte_same {m : Memory} (a : Nat) (v : Byte) (hm : wf cfg m) :
    readByte cfg (writeByte cfg m a v) a = v :=
  read_write_same _ v hm

theorem readByte_writeByte_ne {a b : Nat} (m : Memory) (v : Byte) (h : wrapAddr b ≠ wrapAddr a) :
    readByte cfg (writeByte cfg m a v) b = readByte cfg m b :=
  read_write_ne m v h

theorem wf_writeByte {m : Memory} (a : Nat) (v : Byte) (hm : wf cfg m) : wf cfg (writeByte cfg m a v) :=
  wf_write v hm (wrapAddr_lt a)

/-! ## Consecutive bytes -/

@[simp] theorem writeBytes_nil (m : Memory) (a : Nat) : writeBytes cfg m a [] = m := rfl

theorem writeBytes_cons (m : Memory) (a : Nat) (v : Byte) (vs : List Byte) :
    writeBytes cfg m a (v :: vs) = writeBytes cfg (writeByte cfg m a v) (a + 1) vs := rfl

theorem wf_writeBytes {m : Memory} (a : Nat) (vs : List Byte) (hm : wf cfg m) :
    wf cfg (writeBytes cfg m a vs) := by
  induction vs generalizing m a with
  | nil => exact hm
  | cons v vs ih => exact ih (a + 1) (wf_writeByte a v hm)

/-- Every cell outside the written ones reads as before, whatever the list. -/
theorem readByte_writeBytes_ne {b : Nat} (m : Memory) (a : Nat) (vs : List Byte)
    (h : ∀ k < vs.length, wrapAddr b ≠ wrapAddr (a + k)) :
    readByte cfg (writeBytes cfg m a vs) b = readByte cfg m b := by
  induction vs generalizing m a with
  | nil => rfl
  | cons v vs ih =>
    rw [writeBytes_cons, ih (writeByte cfg m a v) (a + 1) fun k hk => ?_,
      readByte_writeByte_ne m v (by simpa using h 0 (by simp))]
    have := h (k + 1) (by simpa using hk)
    rwa [show a + 1 + k = a + (k + 1) by omega]

/-- Each written cell reads as the byte written to it. -/
theorem readByte_writeBytes_at {m : Memory} (a : Nat) {vs : List Byte} (hm : wf cfg m)
    (hl : vs.length ≤ memSize) {k : Nat} (hk : k < vs.length) :
    readByte cfg (writeBytes cfg m a vs) (a + k) = vs[k] := by
  induction vs generalizing m a k with
  | nil => simp at hk
  | cons v vs ih =>
    have hl' : vs.length + 1 ≤ memSize := by simpa using hl
    cases k with
    | zero =>
      rw [writeBytes_cons, readByte_writeBytes_ne _ _ _ fun j hj => ?_]
      · exact readByte_writeByte_same a v hm
      · rw [show a + 1 + j = a + (j + 1) by omega]
        exact wrapAddr_add_ne (by simp [memSize]) (by omega) (by omega)
    | succ k =>
      have hk' : k < vs.length := by simpa using hk
      rw [writeBytes_cons, show a + (k + 1) = a + 1 + k by omega,
        ih (a + 1) (wf_writeByte a v hm) (by omega) hk']
      rfl

/-! ## The fetch -/

/-- The word fetched where the two bytes of `w` were written is `w` (R53). -/
theorem readWord_writeBytes {m : Memory} (a : Nat) (w : Word) (hm : wf cfg m) :
    readWord cfg (writeBytes cfg m a (bytesOfWord w)) a = w := by
  have h0 := readByte_writeBytes_at a (vs := bytesOfWord w) hm (by simp [bytesOfWord, memSize])
    (k := 0) (by simp [bytesOfWord])
  have h1 := readByte_writeBytes_at a (vs := bytesOfWord w) hm (by simp [bytesOfWord, memSize])
    (k := 1) (by simp [bytesOfWord])
  rw [Nat.add_zero] at h0
  rw [readWord, h0, h1]
  exact wordOfBytes_bytesOfWord w

end Sys2Proof.Machine.Memory
end

