-- ==== Sys2Proof/Laws/PerInstr.lean ====
section
/-! SUPPORT. One lemma per constructor of Instr: the word an instruction encodes to selects the
instruction's own row of the opcode table (30_encoding.md R88). -/

namespace Sys2Proof.Laws.TableRow

/-- A row whose mask is the top nibble. -/
theorem matches_top {w : Word} (name : String) {op : Nibble} (h : fieldTop w = op) :
    (⟨name, encA op 0, 0xF000⟩ : OpRow).matches w = true := by
  subst h
  exact beq_iff_eq.mpr (and_maskTop w)

/-- A row whose mask is the top and the low nibble. -/
theorem matches_topN {w : Word} (name : String) {op n : Nibble} (h : fieldTop w = op)
    (hn : fieldN w = n) : (⟨name, encR op 0 0 n, 0xF00F⟩ : OpRow).matches w = true := by
  subst h hn
  exact beq_iff_eq.mpr (and_maskTopN w)

/-- A row whose mask is the top nibble and the low byte. -/
theorem matches_topKk {w : Word} (name : String) {op : Nibble} {kk : Byte} (h : fieldTop w = op)
    (hk : fieldKk w = kk) : (⟨name, encI op 0 kk, 0xF0FF⟩ : OpRow).matches w = true := by
  subst h hk
  exact beq_iff_eq.mpr (and_maskTopKk w)

/-- Some row of the table has the instruction's mnemonic, and the instruction's word selects it. -/
def Statement (i : Instr) : Prop :=
  ∃ r ∈ opcodeTable, r.mnemonic = i.mnemonic ∧ r.matches (encode i) = true

theorem cls : Statement .cls :=
  ⟨⟨"CLS", 0x00E0, 0xFFFF⟩, by decide, rfl,
    by decide⟩

theorem ret : Statement .ret :=
  ⟨⟨"RET", 0x00EE, 0xFFFF⟩, by decide, rfl,
    by decide⟩

theorem sys (nnn : Addr12) : Statement (.sys nnn) :=
  ⟨⟨"SYS_nnn", 0x0000, 0xF000⟩, by decide, rfl,
    matches_top _ (fieldTop_encA _ _)⟩

theorem jp (nnn : Addr12) : Statement (.jp nnn) :=
  ⟨⟨"JP_nnn", 0x1000, 0xF000⟩, by decide, rfl,
    matches_top _ (fieldTop_encA _ _)⟩

theorem call (nnn : Addr12) : Statement (.call nnn) :=
  ⟨⟨"CALL_nnn", 0x2000, 0xF000⟩, by decide, rfl,
    matches_top _ (fieldTop_encA _ _)⟩

theorem seImm (x : RegIx) (kk : Byte) : Statement (.seImm x kk) :=
  ⟨⟨"SE_Vx__kk", 0x3000, 0xF000⟩, by decide, rfl,
    matches_top _ (fieldTop_encI _ _ _)⟩

theorem sneImm (x : RegIx) (kk : Byte) : Statement (.sneImm x kk) :=
  ⟨⟨"SNE_Vx__kk", 0x4000, 0xF000⟩, by decide, rfl,
    matches_top _ (fieldTop_encI _ _ _)⟩

theorem seReg (x : RegIx) (y : RegIx) (z : Nibble) : Statement (.seReg x y z) :=
  ⟨⟨"SE_Vx__Vy", 0x5000, 0xF000⟩, by decide, rfl,
    matches_top _ (fieldTop_encR _ _ _ _)⟩

theorem ldImm (x : RegIx) (kk : Byte) : Statement (.ldImm x kk) :=
  ⟨⟨"LD_Vx__kk", 0x6000, 0xF000⟩, by decide, rfl,
    matches_top _ (fieldTop_encI _ _ _)⟩

theorem addImm (x : RegIx) (kk : Byte) : Statement (.addImm x kk) :=
  ⟨⟨"ADD_Vx__kk", 0x7000, 0xF000⟩, by decide, rfl,
    matches_top _ (fieldTop_encI _ _ _)⟩

theorem ldReg (x : RegIx) (y : RegIx) : Statement (.ldReg x y) :=
  ⟨⟨"LD_Vx__Vy", 0x8000, 0xF00F⟩, by decide, rfl,
    matches_topN _ (fieldTop_encR _ _ _ _) (fieldN_encR _ _ _ _)⟩

theorem orReg (x : RegIx) (y : RegIx) : Statement (.orReg x y) :=
  ⟨⟨"OR_Vx__Vy", 0x8001, 0xF00F⟩, by decide, rfl,
    matches_topN _ (fieldTop_encR _ _ _ _) (fieldN_encR _ _ _ _)⟩

theorem andReg (x : RegIx) (y : RegIx) : Statement (.andReg x y) :=
  ⟨⟨"AND_Vx__Vy", 0x8002, 0xF00F⟩, by decide, rfl,
    matches_topN _ (fieldTop_encR _ _ _ _) (fieldN_encR _ _ _ _)⟩

theorem xorReg (x : RegIx) (y : RegIx) : Statement (.xorReg x y) :=
  ⟨⟨"XOR_Vx__Vy", 0x8003, 0xF00F⟩, by decide, rfl,
    matches_topN _ (fieldTop_encR _ _ _ _) (fieldN_encR _ _ _ _)⟩

theorem addReg (x : RegIx) (y : RegIx) : Statement (.addReg x y) :=
  ⟨⟨"ADD_Vx__Vy", 0x8004, 0xF00F⟩, by decide, rfl,
    matches_topN _ (fieldTop_encR _ _ _ _) (fieldN_encR _ _ _ _)⟩

theorem subReg (x : RegIx) (y : RegIx) : Statement (.subReg x y) :=
  ⟨⟨"SUB_Vx__Vy", 0x8005, 0xF00F⟩, by decide, rfl,
    matches_topN _ (fieldTop_encR _ _ _ _) (fieldN_encR _ _ _ _)⟩

theorem shr (x : RegIx) (y : RegIx) : Statement (.shr x y) :=
  ⟨⟨"SHR_Vx", 0x8006, 0xF00F⟩, by decide, rfl,
    matches_topN _ (fieldTop_encR _ _ _ _) (fieldN_encR _ _ _ _)⟩

theorem subn (x : RegIx) (y : RegIx) : Statement (.subn x y) :=
  ⟨⟨"SUBN_Vx__Vy", 0x8007, 0xF00F⟩, by decide, rfl,
    matches_topN _ (fieldTop_encR _ _ _ _) (fieldN_encR _ _ _ _)⟩

theorem shl (x : RegIx) (y : RegIx) : Statement (.shl x y) :=
  ⟨⟨"SHL_Vx", 0x800E, 0xF00F⟩, by decide, rfl,
    matches_topN _ (fieldTop_encR _ _ _ _) (fieldN_encR _ _ _ _)⟩

theorem sneReg (x : RegIx) (y : RegIx) (z : Nibble) : Statement (.sneReg x y z) :=
  ⟨⟨"SNE_Vx__Vy", 0x9000, 0xF000⟩, by decide, rfl,
    matches_top _ (fieldTop_encR _ _ _ _)⟩

theorem ldI (nnn : Addr12) : Statement (.ldI nnn) :=
  ⟨⟨"LD_I__nnn", 0xA000, 0xF000⟩, by decide, rfl,
    matches_top _ (fieldTop_encA _ _)⟩

theorem jpV0 (nnn : Addr12) : Statement (.jpV0 nnn) :=
  ⟨⟨"JP_V0__nnn", 0xB000, 0xF000⟩, by decide, rfl,
    matches_top _ (fieldTop_encA _ _)⟩

theorem rnd (x : RegIx) (kk : Byte) : Statement (.rnd x kk) :=
  ⟨⟨"RND_Vx__kk", 0xC000, 0xF000⟩, by decide, rfl,
    matches_top _ (fieldTop_encI _ _ _)⟩

theorem drw (x : RegIx) (y : RegIx) (n : Nibble) : Statement (.drw x y n) :=
  ⟨⟨"DRW_Vx__Vy__n", 0xD000, 0xF000⟩, by decide, rfl,
    matches_top _ (fieldTop_encR _ _ _ _)⟩

theorem skp (x : RegIx) : Statement (.skp x) :=
  ⟨⟨"SKP_Vx", 0xE09E, 0xF0FF⟩, by decide, rfl,
    matches_topKk _ (fieldTop_encI _ _ _) (fieldKk_encI _ _ _)⟩

theorem sknp (x : RegIx) : Statement (.sknp x) :=
  ⟨⟨"SKNP_Vx", 0xE0A1, 0xF0FF⟩, by decide, rfl,
    matches_topKk _ (fieldTop_encI _ _ _) (fieldKk_encI _ _ _)⟩

theorem ldVxDt (x : RegIx) : Statement (.ldVxDt x) :=
  ⟨⟨"LD_Vx__DT", 0xF007, 0xF0FF⟩, by decide, rfl,
    matches_topKk _ (fieldTop_encI _ _ _) (fieldKk_encI _ _ _)⟩

theorem ldVxK (x : RegIx) : Statement (.ldVxK x) :=
  ⟨⟨"LD_Vx__K", 0xF00A, 0xF0FF⟩, by decide, rfl,
    matches_topKk _ (fieldTop_encI _ _ _) (fieldKk_encI _ _ _)⟩

theorem ldDtVx (x : RegIx) : Statement (.ldDtVx x) :=
  ⟨⟨"LD_DT__Vx", 0xF015, 0xF0FF⟩, by decide, rfl,
    matches_topKk _ (fieldTop_encI _ _ _) (fieldKk_encI _ _ _)⟩

theorem ldStVx (x : RegIx) : Statement (.ldStVx x) :=
  ⟨⟨"LD_ST__Vx", 0xF018, 0xF0FF⟩, by decide, rfl,
    matches_topKk _ (fieldTop_encI _ _ _) (fieldKk_encI _ _ _)⟩

theorem addI (x : RegIx) : Statement (.addI x) :=
  ⟨⟨"ADD_I__Vx", 0xF01E, 0xF0FF⟩, by decide, rfl,
    matches_topKk _ (fieldTop_encI _ _ _) (fieldKk_encI _ _ _)⟩

theorem ldF (x : RegIx) : Statement (.ldF x) :=
  ⟨⟨"LD_F__Vx", 0xF029, 0xF0FF⟩, by decide, rfl,
    matches_topKk _ (fieldTop_encI _ _ _) (fieldKk_encI _ _ _)⟩

theorem ldB (x : RegIx) : Statement (.ldB x) :=
  ⟨⟨"LD_B__Vx", 0xF033, 0xF0FF⟩, by decide, rfl,
    matches_topKk _ (fieldTop_encI _ _ _) (fieldKk_encI _ _ _)⟩

theorem ldMemVx (x : RegIx) : Statement (.ldMemVx x) :=
  ⟨⟨"LD__I___Vx", 0xF055, 0xF0FF⟩, by decide, rfl,
    matches_topKk _ (fieldTop_encI _ _ _) (fieldKk_encI _ _ _)⟩

theorem ldVxMem (x : RegIx) : Statement (.ldVxMem x) :=
  ⟨⟨"LD_Vx___I", 0xF065, 0xF0FF⟩, by decide, rfl,
    matches_topKk _ (fieldTop_encI _ _ _) (fieldKk_encI _ _ _)⟩

theorem invalid (w : Word) : Statement (.invalid w) :=
  ⟨⟨"INVALID", 0x0000, 0x0000⟩, by decide, rfl,
    by simp [OpRow.matches, encode]⟩

end Sys2Proof.Laws.TableRow
end

