-- ==== Sys2Proof/Laws/Step.lean ====
section
/-! SUPPORT. What one step can do: the host's next step, the cases of a tick (40_tick_cycle.md R103), the
bodies of the other steps, and what `withFetchWord` guarantees of the next step. -/

namespace Sys2Proof.Machine

variable {s : State}

/-! ## Whose turn it is -/

theorem step_unscheduled (h : s.schedule = []) :
    step s = tick (freeTickIn s.tickNo) s.countTick.beginStep := by
  simp [step, nextHostStep, h, runHostStep]

theorem step_scheduled {hs : HostStep} {rest : List HostStep} (h : s.schedule = hs :: rest) :
    step s = runHostStep hs (s.setSchedule rest) := by
  simp [step, nextHostStep, h]

/-- A run of one more step whose first step completes. -/
theorem run_succ {n : Nat} {t : State} (h : step s = .next t) :
    Host.Core.run Sys2Proof.core (n + 1) s = Host.Core.run Sys2Proof.core n t := by
  have h' : Sys2Proof.core.step s = .next t := h
  show Host.Core.run Sys2Proof.core (Nat.succ n) s = Host.Core.run Sys2Proof.core n t
  simp only [Host.Core.run, h']

/-! ## A tick (R103) -/

theorem tick_halted (inputs : TickIn) (h : s.halt ≠ none) : tick inputs s = .next (s.sample inputs) := by
  unfold tick
  split
  · rfl
  · contradiction

theorem tick_waiting (inputs : TickIn) (h : s.halt = none) (hw : s.wait ≠ none)
    (hf : s.fetchAllowed = true) : tick inputs s = .next (s.sample inputs).tickTimers := by
  obtain ⟨x, hx⟩ := Option.ne_none_iff_exists'.mp hw
  have hx' : (s.sample inputs).tickTimers.wait = some x := hx
  simp only [tick, h, runTick, hx']
  exact guardAccess_allowed _ hf

theorem tick_running (inputs : TickIn) (h : s.running) (hf : s.fetchAllowed = true) :
    tick inputs s = exec s.fetched (s.sample inputs).tickTimers := by
  have hw : (s.sample inputs).tickTimers.wait = none := h.2
  simp only [tick, h.1, runTick, hw]
  exact guardAccess_allowed _ hf

/-- Under the alternative `ADDR_WRAP` a tick whose fetch reaches above 4095 is refused (D8, log 21). -/
theorem tick_fetch_refused (inputs : TickIn) (h : s.halt = none) (hf : s.fetchAllowed = false) :
    tick inputs s = .refused (.addressAbove4095 s.pc.toNat 2) := by
  simp only [tick, h, runTick]
  exact guardAccess_refused _ hf

/-- The timers of a tick, each on its due input (R111, R200, D2). -/
theorem tickTimers_eq (s : State) :
    s.tickTimers = s.timerAdvance s.ports.timerDue (soundDue s.config.timerDueShared s.ports) := rfl

/-- Everything a tick that answers a next state can do: nothing while a fault is latched, the timer advance
alone while a wait is pending, and otherwise the decoded instruction after the timer advance. -/
theorem tick_cases {inputs : TickIn} {t : State} (h : tick inputs s = .next t) :
    (s.halt ≠ none ∧ t = s.sample inputs) ∨
    (s.halt = none ∧ s.wait ≠ none ∧ s.fetchAllowed = true ∧ t = (s.sample inputs).tickTimers) ∨
    (s.running ∧ s.fetchAllowed = true ∧ exec s.fetched (s.sample inputs).tickTimers = .next t) := by
  by_cases hh : s.halt = none
  · cases hf : s.fetchAllowed with
    | false =>
      rw [tick_fetch_refused inputs hh hf] at h
      cases h
    | true =>
      by_cases hw : s.wait = none
      · exact .inr (.inr ⟨⟨hh, hw⟩, rfl, (tick_running inputs ⟨hh, hw⟩ hf).symm.trans h⟩)
      · rw [tick_waiting inputs hh hw hf] at h
        cases h
        exact .inr (.inl ⟨hh, hw, rfl, rfl⟩)
  · rw [tick_halted inputs hh] at h
    cases h
    exact .inl ⟨hh, rfl⟩

/-- Taking the host's next step touches only the model's own fields. -/
theorem nextHostStep_state (s : State) : ∃ n l,
    (nextHostStep s).2.beginStep = { s with event := none, schedule := l, tickNo := n } := by
  unfold nextHostStep
  split
  · exact ⟨s.tickNo + 1, s.schedule, rfl⟩
  · exact ⟨s.tickNo, _, rfl⟩

/-! ### The fields after the timer advance of a tick -/

@[simp] theorem tickTimers_mem (s : State) : s.tickTimers.mem = s.mem := rfl
@[simp] theorem tickTimers_v (s : State) : s.tickTimers.v = s.v := rfl
@[simp] theorem tickTimers_i (s : State) : s.tickTimers.i = s.i := rfl
@[simp] theorem tickTimers_pc (s : State) : s.tickTimers.pc = s.pc := rfl
@[simp] theorem tickTimers_stack (s : State) : s.tickTimers.stack = s.stack := rfl
@[simp] theorem tickTimers_fb (s : State) : s.tickTimers.fb = s.fb := rfl
@[simp] theorem tickTimers_wait (s : State) : s.tickTimers.wait = s.wait := rfl
@[simp] theorem tickTimers_drew (s : State) : s.tickTimers.drew = s.drew := rfl
@[simp] theorem tickTimers_halt (s : State) : s.tickTimers.halt = s.halt := rfl
@[simp] theorem tickTimers_event (s : State) : s.tickTimers.event = s.event := rfl
@[simp] theorem tickTimers_ports (s : State) : s.tickTimers.ports = s.ports := rfl
@[simp] theorem tickTimers_schedule (s : State) : s.tickTimers.schedule = s.schedule := rfl
@[simp] theorem tickTimers_tickNo (s : State) : s.tickTimers.tickNo = s.tickNo := rfl
@[simp] theorem tickTimers_config (s : State) : s.tickTimers.config = s.config := rfl
@[simp] theorem tickTimers_reg (s : State) (j : RegIx) : s.tickTimers.reg j = s.reg j := rfl
@[simp] theorem tickTimers_readByte (s : State) (a : Nat) : s.tickTimers.readByte a = s.readByte a := rfl
@[simp] theorem tickTimers_fetchWord (s : State) : s.tickTimers.fetchWord = s.fetchWord := rfl
@[simp] theorem tickTimers_fetched (s : State) : s.tickTimers.fetched = s.fetched := rfl
@[simp] theorem tickTimers_sp (s : State) : s.tickTimers.sp = s.sp := rfl
@[simp] theorem tickTimers_dt (s : State) : s.tickTimers.dt = countDown s.ports.timerDue s.dt := rfl
@[simp] theorem tickTimers_st (s : State) :
    s.tickTimers.st = countDown (soundDue s.config.timerDueShared s.ports) s.st := rfl

@[simp] theorem soundDue_shared (inputs : TickIn) : soundDue true inputs = inputs.timerDue := rfl

@[simp] theorem soundDue_not_shared (inputs : TickIn) : soundDue false inputs = inputs.stDue := rfl

/-! ## The other steps -/

theorem keyPress_halted (k : KeyCode) (h : s.halt ≠ none) : keyPress k s = .next s := by
  unfold keyPress
  split
  · contradiction
  · rfl

theorem keyPress_waiting (k : KeyCode) {x : RegIx} (h : s.halt = none) (hw : s.wait = some x) :
    keyPress k s = .next ((s.setReg x (zextKey k)).setWait none) := by
  simp [keyPress, h, hw]

theorem keyPress_not_waiting (k : KeyCode) (hw : s.wait = none) : keyPress k s = .next s := by
  simp [keyPress, hw]

theorem renderAck_halted (h : s.halt ≠ none) : renderAck s = .next s := by
  unfold renderAck
  split
  · rfl
  · contradiction

theorem renderAck_not_halted (h : s.halt = none) : renderAck s = .next (s.setDrew false) := by
  simp [renderAck, h]

theorem resetStep_fits (rom : List Byte) (h : rom.length ≤ s.config.romCapacity) :
    resetStep rom s = .next (s.afterReset rom) := if_pos h

theorem resetStep_too_long (rom : List Byte) (h : s.config.romCapacity < rom.length) :
    resetStep rom s = .refused (.romTooLong rom.length) := if_neg (by omega)

/-- The reset memory lists nothing, so it is in the canonical form, whatever the parameters. -/
theorem reset_memory_wf (c : Config) : Memory.wf c (State.resetWith c).mem := ⟨.nil, nofun⟩

@[simp] theorem afterReset_config (rom : List Byte) : (s.afterReset rom).config = s.config := rfl

/-- The memory after a Reset step is in the canonical form. -/
theorem afterReset_memory_wf (rom : List Byte) : Memory.wf s.config (s.afterReset rom).mem :=
  Memory.wf_writeBytes _ rom (reset_memory_wf s.config)

/-- No step changes the machine's parameters, a Reset step included (log 42). -/
theorem step_config {t : State} (h : step s = .next t) : t.config = s.config := by
  obtain ⟨n, l, hu⟩ := nextHostStep_state s
  have hc : (nextHostStep s).2.beginStep.config = s.config := by rw [hu]
  unfold step runHostStep at h
  generalize (nextHostStep s).2.beginStep = u at h hc
  rw [← hc]
  split at h
  · rcases tick_cases h with ⟨-, rfl⟩ | ⟨-, -, -, rfl⟩ | ⟨-, -, hx⟩
    · rfl
    · rfl
    · exact (exec_config _ hx).trans rfl
  · unfold keyPress at h
    split at h <;> cases h <;> rfl
  · unfold renderAck at h
    split at h <;> cases h <;> rfl
  · unfold resetStep at h
    split at h <;> cases h
    rfl

/-! ## The next step of `withFetchWord` -/

theorem fromFirstTick_cases (l : List HostStep) :
    fromFirstTick l = [] ∨ ∃ inputs rest, fromFirstTick l = .tick inputs :: rest := by
  induction l with
  | nil => exact .inl rfl
  | cons h t ih =>
    cases h with
    | tick inputs => exact .inr ⟨inputs, t, rfl⟩
    | keyPress k => exact ih
    | renderAck => exact ih
    | reset rom => exact ih

theorem placeWord_fetchWord (w : Word) (h : Memory.wf s.config s.mem) : (s.placeWord w).fetchWord = w :=
  Memory.readWord_writeBytes _ w h

theorem placeWord_running (w : Word) : (s.placeWord w).running := ⟨rfl, rfl⟩

end Sys2Proof.Machine
end

