-- ==== Sys2Proof/Tests/Slice0.lean ====
section
/-! SUPPORT. The model's own tests: ill-formed terms refused, words of table E2 decoded, at most two one-step
tests an instruction with expected values from 95_test_vectors.md, and a witness for the hypotheses of
every statement that has some. -/

namespace Sys2Proof.Tests

open Sys2Proof.Machine

/-! ## Well-formedness and configuration -/

theorem test_config_valid :
    Config.current.valid = true ∧ Config.current.romCapacity = 3584 := by decide

/-- Another machine: every parameter of table P1 at a value other than its default. -/
def otherConfig : Config where
  fontBase := 0x50
  fontData := fontHigh ++ fontLow
  progBase := 0x600
  stackDepth := 2
  addrWrap := .refuseAbove
  invalidPc := .advance2
  sys := .ignore
  lowNibble59 := .mustBeZero
  keyIndex := .faultAbove15
  fontDigit := .refuseAbove15
  toneRounding := .up
  vfOrderArith := .resultLast
  vfOrderShift := .resultLast
  timerDueShared := false

theorem test_other_config_valid :
    otherConfig.valid = true ∧ otherConfig.romCapacity = 0xA00 := by decide

theorem test_wf_refuses_sys_of_cls : (Instr.sys 0x0E0).wf = false := by decide

theorem test_wf_refuses_sys_of_ret : (Instr.sys 0x0EE).wf = false := by decide

theorem test_wf_refuses_invalid_of_a_known_word :
    (Instr.invalid 0x8124).wf = false ∧ (Instr.invalid 0xE49E).wf = false ∧
    (Instr.invalid 0xF365).wf = false ∧ (Instr.invalid 0x1234).wf = false := by decide

theorem test_wf_refuses_low_nibble_under_mustBeZero :
    (Instr.seReg 1 2 0xF).wfWith .mustBeZero = false ∧
    (Instr.sneReg 1 2 0x1).wfWith .mustBeZero = false ∧
    (Instr.invalid 0x5120).wfWith .mustBeZero = false := by decide

/-! ## Decoding: table E2, 95_test_vectors.md section 2.1 -/

theorem test_decode_top_nibble_0 :
    decodeWord 0b0000000011100000#16 = .cls ∧ decodeWord 0b0000000011101110#16 = .ret ∧
    decodeWord 0x0000 = .sys 0x000 ∧ decodeWord 0x01E0 = .sys 0x1E0 ∧
    decodeWord 0x0FFF = .sys 0xFFF := by decide

theorem test_decode_jumps_and_calls :
    decodeWord 0b0001001000110100#16 = .jp 0x234 ∧ decodeWord 0x2ABC = .call 0xABC ∧
    decodeWord 0xB300 = .jpV0 0x300 := by decide

theorem test_decode_skips :
    decodeWord 0b0011101001111111#16 = .seImm 10 0x7F ∧ decodeWord 0x4001 = .sneImm 0 0x01 ∧
    decodeWord 0x5120 = .seReg 1 2 0x0 ∧ decodeWord 0x512F = .seReg 1 2 0xF ∧
    decodeWord 0x9120 = .sneReg 1 2 0x0 ∧ decodeWord 0x9ABC = .sneReg 10 11 0xC := by decide

theorem test_decode_load_arithmetic :
    decodeWord 0b0110101000101111#16 = .ldImm 10 0x2F ∧ decodeWord 0x71FF = .addImm 1 0xFF ∧
    decodeWord 0x8120 = .ldReg 1 2 ∧ decodeWord 0b1000000100100100#16 = .addReg 1 2 ∧
    decodeWord 0x8125 = .subReg 1 2 ∧ decodeWord 0x8127 = .subn 1 2 := by decide

theorem test_decode_bitwise :
    decodeWord 0b1000000100100001#16 = .orReg 1 2 ∧ decodeWord 0x8122 = .andReg 1 2 ∧
    decodeWord 0x8123 = .xorReg 1 2 ∧ decodeWord 0x8126 = .shr 1 2 ∧
    decodeWord 0x812E = .shl 1 2 := by decide

theorem test_decode_memory_index :
    decodeWord 0b1010001011110000#16 = .ldI 0x2F0 ∧ decodeWord 0xF21E = .addI 2 ∧
    decodeWord 0xF029 = .ldF 0 ∧ decodeWord 0xF033 = .ldB 0 ∧ decodeWord 0xF155 = .ldMemVx 1 ∧
    decodeWord 0xF265 = .ldVxMem 2 := by decide

theorem test_decode_display_and_random :
    decodeWord 0b1101000100100101#16 = .drw 1 2 5 ∧ decodeWord 0xD000 = .drw 0 0 0 ∧
    decodeWord 0b1100001000001111#16 = .rnd 2 0x0F := by decide

theorem test_decode_timers_keys :
    decodeWord 0b1110010010011110#16 = .skp 4 ∧ decodeWord 0xE4A1 = .sknp 4 ∧
    decodeWord 0b1111000000000111#16 = .ldVxDt 0 ∧ decodeWord 0xF30A = .ldVxK 3 ∧
    decodeWord 0xF315 = .ldDtVx 3 ∧ decodeWord 0xF318 = .ldStVx 3 := by decide

theorem test_decode_invalid :
    decodeWord 0b1000000100101000#16 = .invalid 0x8128 ∧ decodeWord 0x812D = .invalid 0x812D ∧
    decodeWord 0x812F = .invalid 0x812F ∧ decodeWord 0xE49F = .invalid 0xE49F ∧
    decodeWord 0xE000 = .invalid 0xE000 ∧ decodeWord 0xF000 = .invalid 0xF000 ∧
    decodeWord 0xF075 = .invalid 0xF075 ∧ decodeWord 0xFFFF = .invalid 0xFFFF ∧
    decodeWordWith .mustBeZero 0x512F = .invalid 0x512F := by decide

/-- The first byte is the high byte (R53), and what follows the instruction is given back. -/
theorem test_decode_bytes_big_endian :
    decode [0x12, 0x34, 0xAA] = .ok (.jp 0x234, [0xAA]) := rfl

theorem test_decode_bytes_too_short :
    decode [] = .error (.truncated 0) ∧ decode [0x12] = .error (.truncated 1) := ⟨rfl, rfl⟩

theorem test_decodeTableWord : decodeTableWord 16 0xD125 = some (.drw 1 2 5) := by decide

theorem test_encode_words :
    encode .cls = 0x00E0 ∧ encode (.call 0xABC) = 0x2ABC ∧ encode (.seReg 1 2 0xF) = 0x512F ∧
    encode (.subn 1 2) = 0x8127 ∧ encode (.drw 1 2 5) = 0xD125 ∧ encode (.ldVxMem 2) = 0xF265 := by
  decide

/-! ## One step of each instruction: 95_test_vectors.md sections 2.2 to 2.9 -/

/-- The reset state with the listed registers. -/
def withRegs (l : List (RegIx × Byte)) : State := l.foldl (fun s p => s.setReg p.1 p.2) State.reset

/-- What holds after the one tick that runs the word `w` at `PC`, with the inputs given. -/
def after (s : State) (w : Word) (inputs : TickIn) (holds : State → Bool) : Bool :=
  match step ((s.placeWord w).setSchedule [.tick inputs]) with
  | .next t => holds t
  | .fault _ => false
  | .refused _ => false

/-- The same with every input low. -/
def ticks (s : State) (w : Word) (holds : State → Bool) : Bool := after s w TickIn.low holds

theorem test_ldImm_to_VF :
    ticks State.reset 0x6F07 (fun t => t.reg 15 == 0x07 && t.pc == 0x202) = true := by decide

theorem test_addImm_wraps_without_flag :
    ticks (withRegs [(1, 0xFF), (15, 0x55)]) 0x7102
      (fun t => t.reg 1 == 0x01 && t.reg 15 == 0x55) = true := by decide

theorem test_ldReg_copies :
    ticks (withRegs [(3, 0x77)]) 0x8230 (fun t => t.reg 2 == 0x77 && t.reg 3 == 0x77) = true := by
  decide

theorem test_addReg_carry :
    ticks (withRegs [(1, 250), (2, 10)]) 0x8124 (fun t => t.reg 1 == 4 && t.reg 15 == 1) = true := by
  decide

theorem test_addReg_flag_wins_in_VF :
    ticks (withRegs [(15, 1), (1, 2)]) 0x8F14 (fun t => t.reg 15 == 0) = true := by decide

theorem test_subReg_borrow :
    ticks (withRegs [(1, 5), (2, 10)]) 0x8125 (fun t => t.reg 1 == 251 && t.reg 15 == 0) = true := by
  decide

theorem test_subReg_equal_is_no_borrow :
    ticks (withRegs [(1, 10), (2, 10)]) 0x8125 (fun t => t.reg 1 == 0 && t.reg 15 == 1) = true := by
  decide

theorem test_subn_reverses :
    ticks (withRegs [(1, 5), (2, 10)]) 0x8127 (fun t => t.reg 1 == 5 && t.reg 15 == 1) = true := by
  decide

theorem test_subn_borrow :
    ticks (withRegs [(1, 10), (2, 5)]) 0x8127 (fun t => t.reg 1 == 251 && t.reg 15 == 0) = true := by
  decide

theorem test_orReg :
    ticks (withRegs [(0, 0xF0), (1, 0x0F), (15, 0x55)]) 0x8011
      (fun t => t.reg 0 == 0xFF && t.reg 15 == 0x55) = true := by decide

theorem test_andReg :
    ticks (withRegs [(0, 0xF3), (1, 0x3C)]) 0x8012 (fun t => t.reg 0 == 0x30) = true := by decide

theorem test_xorReg :
    ticks (withRegs [(0, 0xFF), (1, 0x0F)]) 0x8013 (fun t => t.reg 0 == 0xF0) = true := by decide

theorem test_shr_ignores_y :
    ticks (withRegs [(2, 0x05), (3, 0xFF)]) 0x8236
      (fun t => t.reg 2 == 0x02 && t.reg 3 == 0xFF && t.reg 15 == 1) = true := by decide

theorem test_shr_of_VF :
    ticks (withRegs [(15, 0xFF)]) 0x8F06 (fun t => t.reg 15 == 0x00) = true := by decide

theorem test_shl :
    ticks (withRegs [(2, 0x81)]) 0x820E (fun t => t.reg 2 == 0x02 && t.reg 15 == 1) = true := by
  decide

theorem test_shl_of_VF :
    ticks (withRegs [(15, 0x80)]) 0x8F0E (fun t => t.reg 15 == 0x02) = true := by decide

theorem test_jp_odd_target : ticks State.reset 0x1201 (fun t => t.pc == 0x201) = true := by decide

theorem test_jpV0_past_the_address_space :
    ticks (withRegs [(0, 0xFF)]) 0xBFFF (fun t => t.pc == 0x10FE) = true := by decide

theorem test_call_pushes :
    ticks (State.reset.setPc 0x204) 0x220A
      (fun t => t.stackEntry 0 == some 0x206 && t.sp == 1 && t.pc == 0x20A) = true := by decide

theorem test_call_on_a_full_stack :
    ticks (State.reset.setStack (List.replicate 16 0x202)) 0x2300
      (fun t => t.halt == some ⟨.stackOverflow, 0x200⟩ && t.pc == 0x200 && t.sp == 16) = true := by
  decide

theorem test_ret_takes_the_top_entry :
    ticks (State.reset.setStack [0x300, 0x206]) 0x00EE
      (fun t => t.sp == 1 && t.pc == 0x300 && t.stackEntry 0 == some 0x206) = true := by decide

theorem test_ret_on_an_empty_stack :
    ticks State.reset 0x00EE
      (fun t => t.halt == some ⟨.stackUnderflow, 0x200⟩ && t.pc == 0x200 && t.faultKind == 1) =
        true := by decide

theorem test_seImm_wraps_PC :
    ticks (State.reset.setPc 0xFFFE) 0x3100 (fun t => t.pc == 0x0002) = true := by decide

theorem test_sneImm :
    ticks (withRegs [(1, 5)]) 0x4100 (fun t => t.pc == 0x204) = true ∧
    ticks (withRegs [(1, 5)]) 0x4105 (fun t => t.pc == 0x202) = true := by decide

theorem test_seReg :
    ticks (withRegs [(1, 7), (2, 7)]) 0x5120 (fun t => t.pc == 0x204) = true ∧
    ticks (withRegs [(1, 7), (2, 8)]) 0x5120 (fun t => t.pc == 0x202) = true := by decide

theorem test_sneReg :
    ticks (withRegs [(1, 7), (2, 8)]) 0x9120 (fun t => t.pc == 0x204) = true ∧
    ticks (withRegs [(1, 7)]) 0x9110 (fun t => t.pc == 0x202) = true := by decide

theorem test_ldI : ticks (State.reset.setI 0xFFFF) 0xA2F0 (fun t => t.i == 0x02F0) = true := by decide

theorem test_addI_past_the_address_space :
    ticks ((withRegs [(2, 1), (15, 0x55)]).setI 0x0FFF) 0xF21E
      (fun t => t.i == 0x1000 && t.reg 15 == 0x55) = true := by decide

theorem test_addI_wraps :
    ticks ((withRegs [(2, 1)]).setI 0xFFFF) 0xF21E (fun t => t.i == 0x0000) = true := by decide

theorem test_ldF_low_nibble :
    ticks (withRegs [(0, 0x1A)]) 0xF029 (fun t => t.i == 0x0032) = true := by decide

theorem test_ldB_digits :
    ticks ((withRegs [(0, 254)]).setI 0x300) 0xF033
      (fun t => t.readByte 0x300 == 2 && t.readByte 0x301 == 5 && t.readByte 0x302 == 4 &&
        t.i == 0x300) = true := by decide

theorem test_ldB_wraps_into_the_font :
    ticks ((withRegs [(0, 123)]).setI 0xFFE) 0xF033
      (fun t => t.readByte 0xFFE == 1 && t.readByte 0xFFF == 2 && t.readByte 0x000 == 3) = true := by
  decide

theorem test_ldMemVx :
    ticks ((withRegs [(0, 0xAA), (1, 0xBB), (2, 0xCC)]).setI 0x400) 0xF155
      (fun t => t.readByte 0x400 == 0xAA && t.readByte 0x401 == 0xBB && t.readByte 0x402 == 0 &&
        t.i == 0x400) = true := by decide

theorem test_ldVxMem_stops_at_x :
    ticks (((withRegs [(3, 0x99)]).writeBytes 0x300 [2, 5, 4]).setI 0x300) 0xF265
      (fun t => t.reg 0 == 2 && t.reg 1 == 5 && t.reg 2 == 4 && t.reg 3 == 0x99) = true := by decide

theorem test_ldVxMem_of_the_font :
    ticks State.reset 0xF165 (fun t => t.reg 0 == 0xF0 && t.reg 1 == 0x90) = true := by decide

/-- The cells that are on, row by row. -/
def onCells (s : State) : List (Nat × Nat) :=
  (List.finRange 32).flatMap fun r =>
    ((List.finRange 64).filter fun c => s.fbOut r c).map fun c => (r.val, c.val)

/-- The reset state with the one cell (0,0) on. -/
def oneCell : State := State.reset.setFb (FrameBuffer.flip FrameBuffer.blank 0 0)

theorem test_cls :
    ticks oneCell 0x00E0 (fun t => t.fb == FrameBuffer.blank && t.drew) = true := by decide

theorem test_drw_wraps_on_both_axes :
    ticks ((withRegs [(1, 62), (2, 30)]).setI 0x19) 0xD125
      (fun t => onCells t ==
          [(0, 0), (0, 1), (0, 62), (0, 63), (1, 1), (2, 0), (2, 1), (2, 62), (2, 63), (30, 0),
           (30, 1), (30, 62), (30, 63), (31, 62)] && t.reg 15 == 0 && t.drew) = true := by decide

theorem test_drw_collision :
    ticks ((oneCell.writeBytes 0x300 [0x80]).setI 0x300) 0xD011
      (fun t => t.fb == FrameBuffer.blank && t.reg 15 == 1) = true := by decide

theorem test_ldVxDt_after_the_timer_advance :
    after (State.reset.setDt 5) 0xF307 { TickIn.low with timerDue := true }
      (fun t => t.reg 3 == 4 && t.dt == 4) = true := by decide

theorem test_ldDtVx_overwrites_the_advanced_timer :
    after ((withRegs [(3, 60)]).setDt 9) 0xF315 { TickIn.low with timerDue := true }
      (fun t => t.dt == 60) = true := by decide

theorem test_ldStVx_requests_a_tone :
    ticks (withRegs [(3, 255)]) 0xF318 (fun t => t.st == 255 && t.toneRequest == some 4250) = true := by
  decide

theorem test_ldStVx_zero :
    ticks State.reset 0xF318 (fun t => t.st == 0 && t.toneRequest == some 0) = true := by decide

theorem test_skp_low_nibble :
    after (withRegs [(4, 0x1A)]) 0xE49E { TickIn.low with keysHeld := 0x0400 }
      (fun t => t.pc == 0x204) = true := by decide

theorem test_skp_other_keys :
    after (withRegs [(4, 0x0A)]) 0xE49E { TickIn.low with keysHeld := 0xFBFF }
      (fun t => t.pc == 0x202) = true := by decide

theorem test_sknp :
    ticks (withRegs [(4, 0x0A)]) 0xE4A1 (fun t => t.pc == 0x204) = true ∧
    after (withRegs [(4, 0x0A)]) 0xE4A1 { TickIn.low with keysHeld := 0x0400 }
      (fun t => t.pc == 0x202) = true := by decide

theorem test_ldVxK_is_not_resolved_by_held_keys :
    after State.reset 0xF30A { TickIn.low with keysHeld := 0xFFFF }
      (fun t => t.wait == some 3 && t.pc == 0x202 && t.reg 3 == 0) = true := by decide

theorem test_rnd_masks :
    after State.reset 0xC20F { TickIn.low with randByte := 0xB7 } (fun t => t.reg 2 == 0x07) = true := by
  decide

theorem test_sys_is_reported :
    ticks (State.reset.setPc 0x300) 0x0000
      (fun t => t.invalidOpcode == some (0x0000, 0x300) && t.pc == 0x300) = true := by decide

theorem test_invalid_is_reported_after_the_timers :
    after (State.reset.setDt 2) 0x8128 { TickIn.low with timerDue := true }
      (fun t => t.invalidOpcode == some (0x8128, 0x200) && t.pc == 0x200 && t.dt == 1) = true := by
  decide

/-! ## The other steps: 95_test_vectors.md section 2.7 -/

/-- What holds after the host's next step. -/
def stepped (s : State) (holds : State → Bool) : Bool :=
  match step s with
  | .next t => holds t
  | .fault _ => false
  | .refused _ => false

theorem test_tick_while_waiting :
    stepped (((State.reset.setWait (some 3)).setDt 9).setSchedule
        [.tick { TickIn.low with timerDue := true }])
      (fun t => t.dt == 8 && t.wait == some 3 && t.pc == 0x200 && t.event == none) = true := by decide

theorem test_keyPress_resolves_the_wait :
    stepped ((State.reset.setWait (some 3)).setSchedule [.keyPress 7])
      (fun t => t.reg 3 == 7 && t.wait == none && t.pc == 0x200) = true := by decide

theorem test_renderAck :
    stepped ((State.reset.setDrew true).setSchedule [.renderAck]) (fun t => !t.drew) = true := by decide

theorem test_halted_tick_freezes_the_timers :
    stepped ((((State.reset.takeFault .stackUnderflow)).setDt 9).setSchedule
        [.tick { TickIn.low with timerDue := true }])
      (fun t => t.dt == 9 && t.faultOut && t.faultPc == some 0x200) = true := by decide

theorem test_reset_loads_the_image :
    stepped ((State.reset.takeFault .stackUnderflow).setSchedule [.reset [0x12, 0x00]])
      (fun t => t.fetchWord == 0x1200 && t.halt == none && t.readByte 5 == 0x20) = true := by decide

/-- The fetch at the top of memory takes its second byte from address 0 (95_test_vectors.md 2.1). -/
theorem test_fetch_wraps :
    ((State.reset.writeBytes 0xFFF [0x60]).setPc 0xFFF).fetchWord = 0x60F0 := by decide

theorem test_withFetchWord_runs_next :
    stepped (State.reset.withFetchWord 16 0x6A2F)
      (fun t => t.reg 10 == 0x2F && t.pc == 0x202 && t.dt == 0) = true := by decide

/-- Writing a cell's reset contents takes it off the list again. -/
theorem test_write_of_the_reset_contents :
    let w := Memory.write Config.current
    w (w [] 0x300 7) 0x300 0 = [] ∧ w [] 0 0xF0 = [] ∧ w [] 0 0 = [(0, 0)] := by decide

/-! ## Another machine (R8): table P1's alternatives, 93_implementation_defined.md U1 to U14, 95_test_vectors.md
P8 with another depth -/

/-- The other machine after its reset. -/
def other : State := State.resetWith otherConfig

theorem test_other_reset :
    other.pc = 0x600 ∧ other.readByte 0x50 = 0xF0 ∧ other.readByte 0x55 = 0xF0 ∧
    other.readByte 0x9F = 0x40 ∧ other.readByte 0x00 = 0 ∧ other.readByte 0xA0 = 0 := by decide

theorem test_other_reset_step_loads_at_PROG_BASE :
    stepped (other.setSchedule [.reset [0x16, 0x00]])
      (fun t => t.fetchWord == 0x1600 && t.config == otherConfig) = true := by decide

theorem test_other_stack_has_room_for_two :
    ticks (other.setStack [0x602]) 0x2600
      (fun t => t.halt == none && t.sp == 2 && t.stackEntry 1 == some 0x602) = true := by decide

theorem test_other_stack_overflows_on_the_third :
    ticks (other.setStack [0x602, 0x602]) 0x2600
      (fun t => t.halt == some ⟨.stackOverflow, 0x600⟩ && t.sp == 2 && t.pc == 0x600) = true := by
  decide

theorem test_other_invalid_advances :
    ticks other 0x8128
      (fun t => t.invalidOpcode == some (0x8128, 0x600) && t.pc == 0x602) = true := by decide

theorem test_other_sys_is_ignored :
    ticks other 0x0000 (fun t => t.event == none && t.pc == 0x602) = true := by decide

theorem test_other_low_nibble_is_decoded :
    ticks other 0x5001 (fun t => t.invalidOpcode == some (0x5001, 0x600)) = true ∧
    ticks other 0x5000 (fun t => t.pc == 0x604) = true := by decide

theorem test_other_result_wins_in_VF :
    ticks ((other.setReg 15 1).setReg 1 2) 0x8F14 (fun t => t.reg 15 == 3) = true ∧
    ticks (other.setReg 15 0x81) 0x8F06 (fun t => t.reg 15 == 0x40) = true := by decide

theorem test_other_ldF :
    ticks (other.setReg 0 1) 0xF029 (fun t => t.i == 0x55) = true ∧
    exec (.ldF 0) (other.setReg 0 16) = .refused (.fontDigitAbove15 0) := ⟨by decide, rfl⟩

theorem test_other_keys_above_15 :
    exec (.skp 4) (other.setReg 4 0x1A) = .fault (.keyIndexAbove15 4) ∧
    exec (.sknp 4) (other.setReg 4 16) = .fault (.keyIndexAbove15 4) := ⟨rfl, rfl⟩

theorem test_other_tone_rounds_up :
    ticks (other.setReg 3 1) 0xF318 (fun t => t.toneRequest == some 17) = true := by decide

theorem test_other_timers_have_two_inputs :
    after ((other.setDt 9).setSt 9) 0x6000 { TickIn.low with stDue := true }
      (fun t => t.dt == 9 && t.st == 8) = true := by decide

theorem test_other_access_above_4095 :
    exec (.ldB 0) (other.setI 0xFFE) = .refused (.addressAbove4095 0xFFE 3) ∧
    exec (.drw 0 0 1) (other.setI 0x1000) = .refused (.addressAbove4095 0x1000 1) ∧
    step ((other.setPc 0xFFF).setSchedule [.tick TickIn.low]) = .refused (.addressAbove4095 0xFFF 2) :=
  ⟨rfl, rfl, rfl⟩

/-! ## Witnesses: states and operands that meet the hypotheses of each statement -/

theorem witness_DecodeOfEncode :
    (∀ p : LowNibblePolicy, (Instr.sys 0x0DF).wfWith p = true ∧ (Instr.sys 0x0E1).wfWith p = true ∧
      (Instr.sys 0x0EF).wfWith p = true ∧ (Instr.seReg 15 0 0x0).wfWith p = true ∧
      (Instr.invalid 0xFFFF).wfWith p = true) ∧
    (Instr.sneReg 0 15 0xF).wfWith .ignored = true ∧
    (Instr.invalid 0x9001).wfWith .mustBeZero = true ∧ (Instr.invalid 0x8128).wf = true := by
  refine ⟨fun p => ?_, by decide⟩
  cases p <;> decide

theorem witness_OpcodeTableRowsDisjoint :
    ∃ r ∈ opcodeTable, ∃ q ∈ opcodeTable, r ≠ q ∧ r.matches 0x00E0 = true ∧ q.matches 0x00E0 = true :=
  ⟨⟨"CLS", 0x00E0, 0xFFFF⟩, by decide, ⟨"SYS_nnn", 0x0000, 0xF000⟩, by decide, by decide, by decide,
    by decide⟩

/-- The reset state with `w` at `PC` and these steps to come. -/
def placed (w : Word) (l : List HostStep) : State := (State.reset.placeWord w).setSchedule l

/-- A tick in which both timers are due and every key is held. -/
def busyTick : TickIn := ⟨true, true, 0xFFFF, 0xB7⟩

theorem witness_StepRunsDecodedInstruction_listed :
    let s := ((placed 0x6A2F [.tick busyTick, .renderAck]).setDt 1).setPc 0x1200
    s.halt = none ∧ s.wait = none ∧ s.fetchAllowed = true ∧
    (Instr.ldImm 10 0x2F).wfWith s.config.lowNibble59 = true ∧
    [s.readByte s.pc.toNat, s.readByte (s.pc.toNat + 1)] = encodeBytes (.ldImm 10 0x2F) ∧
    s.schedule = .tick busyTick :: [.renderAck] := by decide

theorem witness_StepRunsDecodedInstruction_free :
    let s := placed 0x8128 []
    s.halt = none ∧ s.wait = none ∧ s.fetchAllowed = true ∧
    (Instr.invalid 0x8128).wfWith s.config.lowNibble59 = true ∧
    [s.readByte s.pc.toNat, s.readByte (s.pc.toNat + 1)] = encodeBytes (.invalid 0x8128) ∧
    s.schedule = [] := by decide

/-- The last fetch the other machine allows, of an instruction that its decoder alone calls INVALID. -/
theorem witness_StepRunsDecodedInstruction_other :
    let s := ((other.setPc 0xFFE).placeWord 0x5001).setSchedule [.tick busyTick]
    s.halt = none ∧ s.wait = none ∧ s.fetchAllowed = true ∧
    (Instr.invalid 0x5001).wfWith s.config.lowNibble59 = true ∧
    [s.readByte s.pc.toNat, s.readByte (s.pc.toNat + 1)] = encodeBytes (.invalid 0x5001) ∧
    s.schedule = .tick busyTick :: [] := by decide

/-- A machine stopped on a RET with an empty stack, timers running. -/
def halted (l : List HostStep) : State :=
  (((placed 0x00EE l).takeFault .stackUnderflow).setDt 255).setSt 1

/-- A machine waiting for a key into `V[3]`. -/
def waiting (l : List HostStep) : State :=
  ((((placed 0xF30A l).setWait (some 3)).advance 2).setDt 1).setSt 0

theorem witness_HaltedStepsChangeNothing :
    (halted []).halt ≠ none ∧ (nextHostStep (halted [.tick busyTick])).1 = .tick busyTick ∧
    (nextHostStep (halted [.keyPress 15])).1 = .keyPress 15 ∧
    (nextHostStep (halted [.renderAck])).1 = .renderAck := by decide

theorem witness_WaitingTickMovesOnlyTimers :
    (waiting [.tick busyTick]).halt = none ∧ (waiting [.tick busyTick]).wait ≠ none ∧
    (waiting [.tick busyTick]).fetchAllowed = true ∧
    (waiting [.tick busyTick]).schedule = .tick busyTick :: [] := by decide

theorem witness_WaitPersistsUntilKeyPress :
    let s := waiting [.renderAck, .tick busyTick, .keyPress 7]
    s.halt = none ∧ s.wait ≠ none ∧ s.fetchAllowed = true ∧
    ∀ h ∈ s.schedule.take 2, h = .renderAck ∨ ∃ inputs, h = .tick inputs := by
  refine ⟨rfl, by decide, rfl, fun h hh => ?_⟩
  have hh : h ∈ [HostStep.renderAck, .tick busyTick] := hh
  rcases List.mem_cons.mp hh with rfl | hh
  · exact .inl rfl
  · exact .inr ⟨busyTick, List.mem_singleton.mp hh⟩

theorem witness_KeyPressResolvesWait :
    (waiting [.keyPress 0]).halt = none ∧ (waiting [.keyPress 0]).wait = some 3 ∧
    (waiting [.keyPress 0]).schedule = .keyPress 0 :: [] ∧ (placed 0 [.keyPress 15]).halt = none ∧
    (placed 0 [.keyPress 15]).wait = none ∧
    (placed 0 [.keyPress 15]).schedule = .keyPress 15 :: [] := by decide

theorem witness_RenderAckClearsDrew :
    let s := (placed 0 [.renderAck]).setDrew true
    s.halt = none ∧ s.schedule = .renderAck :: [] ∧ s.drew = true := by decide

theorem witness_ResetLoadsProgram_shortest :
    (halted [.reset []]).config.valid = true ∧ (halted [.reset []]).schedule = .reset [] :: [] ∧
    (halted [.reset []]).config.progBase + ([] : List Byte).length ≤ 4096 := by decide

theorem witness_ResetLoadsProgram_longest :
    let rom := List.replicate 3584 (0xFF : Byte)
    (halted [.reset rom]).config.valid = true ∧ (halted [.reset rom]).schedule = .reset rom :: [] ∧
    (halted [.reset rom]).config.progBase + rom.length ≤ 4096 := by
  refine ⟨by decide, rfl, ?_⟩
  rw [List.length_replicate]
  decide

theorem witness_ResetLoadsProgram_other :
    (other.setSchedule [.reset [0x16]]).config.valid = true ∧
    (other.setSchedule [.reset [0x16]]).schedule = .reset [0x16] :: [] ∧
    (other.setSchedule [.reset [0x16]]).config.progBase + [0x16].length ≤ 4096 := by decide

theorem witness_TickAdvancesTimers_waiting :
    let s := waiting [.tick busyTick]
    s.halt = none ∧ s.wait ≠ none ∧ s.schedule = .tick busyTick :: [] ∧ ∃ t, step s = .next t :=
  ⟨rfl, by decide, rfl, _, rfl⟩

theorem witness_TickAdvancesTimers_running :
    let s := placed 0x6A2F [.tick busyTick]
    s.halt = none ∧ s.schedule = .tick busyTick :: [] ∧ (∃ t, step s = .next t) ∧
    (∀ x, s.fetched ≠ .ldDtVx x) ∧ ∀ x, s.fetched ≠ .ldStVx x :=
  ⟨rfl, rfl, ⟨_, rfl⟩, by decide, by decide⟩

/-- `x` and `y` at both ends of the range in which they are not `VF`, for AddRegisters, Subtract,
SubtractReversed, Shifts and DrawTwiceRestores. -/
theorem witness_x_is_not_VF : (0 : RegIx) ≠ 15 ∧ (14 : RegIx) ≠ 15 := by decide

/-- The default policies of FlagWrittenLastToVf, ShiftsOfVf, WriteSoundTimerRequestsTone,
UnrecognizedOpcodesReported, NothingElseFaults and EveryStepCompletesButOverlongReset. -/
theorem witness_default_policies :
    State.reset.config.vfOrderArith = .flagLast ∧ State.reset.config.vfOrderShift = .sequential ∧
    State.reset.config.toneRounding = .floor ∧ State.reset.config.invalidPc = .stay ∧
    State.reset.config.sys = .asInvalid ∧ State.reset.config.neverStops :=
  ⟨rfl, rfl, rfl, rfl, rfl, rfl, rfl, rfl⟩

/-- Both ways of meeting the hypotheses of SkipsOnKeys and of the LD F clause of IndexUpdates, at the ends of
the range of values. -/
theorem witness_SkipsOnKeys_and_IndexUpdates :
    State.reset.config.keyIndex = .low4 ∧ (other.reg 0).toNat ≤ 15 ∧
    ((other.setReg 4 15).reg 4).toNat ≤ 15 ∧ State.reset.config.fontDigit = .low4 := by decide

/-- The ends of the range of addresses an operation may access on the other machine, and any address on the
default one: StoreDecimalDigits, BulkStore, BulkLoad, DRW. -/
theorem witness_dataAllowed :
    (State.reset.setI 0xFFFF).dataAllowed 16 = true ∧ (other.setI 0xFFD).dataAllowed 3 = true ∧
    (other.setI 0xFF0).dataAllowed 16 = true ∧ (other.setI 0xFFFF).dataAllowed 0 = true := by decide

/-- The stack depths at both ends of the range of CallPushesAndJumps and CallThenReturnComesBack, of
ReturnPops, and the two of FatalFaultsLatchAndChangeNothing; on the other machine too. -/
theorem witness_stack_depths :
    (State.reset.setStack []).sp < State.reset.config.stackDepth ∧
    (State.reset.setStack (List.replicate 15 0x202)).sp < State.reset.config.stackDepth ∧
    (other.setStack [0x602]).sp < other.config.stackDepth ∧ 0 < (State.reset.setStack [0x202]).sp ∧
    0 < (State.reset.setStack (List.replicate 16 0x202)).sp ∧
    State.reset.config.stackDepth ≤ (State.reset.setStack (List.replicate 16 0x202)).sp ∧
    other.config.stackDepth ≤ (other.setStack [0x602, 0x602]).sp ∧
    (State.reset.setStack []).sp = 0 := by
  decide

/-- A canonical memory, an address outside the stored cells and, for the bulk transfers, the first and the
last register; `I` two below the end of memory, so that the cells wrap. -/
theorem witness_StoreDecimalDigits_and_BulkStore :
    let s := ((withRegs [(0, 123)]).writeBytes 0x300 [7]).setI 0xFFE
    s.dataAllowed 3 = true ∧ s.dataAllowed ((15 : RegIx).val + 1) = true ∧
    Memory.wf s.config s.mem ∧ ¬ InCells s.dataAddr 3 0xFFD ∧ ¬ InCells s.dataAddr 3 1 ∧
    ¬ InCells s.dataAddr ((15 : RegIx).val + 1) 0xFFD ∧ (0 : RegIx).val ≤ (15 : RegIx).val ∧
    (15 : RegIx).val ≤ (15 : RegIx).val := by
  refine ⟨rfl, rfl, by decide, ?_, ?_, ?_, by decide, by decide⟩ <;> rintro ⟨k, hk, e⟩
  · have e : 0xFFD % 4096 = (0xFFE + k) % 4096 := e
    omega
  · have e : 1 % 4096 = (0xFFE + k) % 4096 := e
    omega
  · have e : 0xFFD % 4096 = (0xFFE + k) % 4096 := e
    have hk : k < 16 := hk
    omega

theorem witness_StoreSeenByNextFetch :
    let s := ((withRegs [(0, 0x6A), (1, 0x2F)]).setPc 0x206).setI 0x208
    Memory.wf s.config s.mem ∧ s.i = s.pc + 2 ∧ 1 ≤ (1 : RegIx).val ∧
    1 ≤ (15 : RegIx).val ∧ s.dataAllowed ((15 : RegIx).val + 1) = true := by decide

/-- A sprite with a set bit over an on cell, and one with no set bit over an on cell. -/
theorem witness_DrawFlipsTheSpriteCells :
    let s := (oneCell.writeBytes 0x300 [0x80, 0x40]).setI 0x300
    s.dataAllowed (1 : Nibble).toNat = true ∧
    (∃ row col, s.spriteBit 0 1 1 row col = true ∧ s.fbOut row col = true) ∧
    ∀ row col, (s.setI 0x301).spriteBit 0 1 1 row col = true → (s.setI 0x301).fbOut row col = false :=
  ⟨rfl, ⟨0, 0, by decide, by decide⟩, by decide⟩

/-- Cells that are all off under a sprite with a set bit. -/
theorem witness_DrawTwiceRestores :
    let s := (withRegs [(1, 62), (2, 30)]).setI 0x19
    (1 : RegIx) ≠ 15 ∧ (2 : RegIx) ≠ 15 ∧ s.dataAllowed (5 : Nibble).toNat = true ∧ s.spriteBit 1 2 5 30 62 = true ∧
    ∀ row col, s.spriteBit 1 2 5 row col = true → s.fbOut row col = false := by decide

theorem witness_ReadDelayTimer :
    let s := (placed 0xF307 [.tick busyTick]).setDt 5
    s.halt = none ∧ s.wait = none ∧ s.fetchAllowed = true ∧ s.fetched = .ldVxDt 3 ∧
    s.schedule = .tick busyTick :: [] := by decide

/-- Each clause's hypotheses, at the values where they begin to hold. -/
theorem witness_ParameterAlternatives :
    other.config.invalidPc = .advance2 ∧ other.config.sys = .ignore ∧
    State.reset.config.sys = .asInvalid ∧ other.config.vfOrderArith = .resultLast ∧
    (State.resetWith { Config.current with vfOrderShift := .flagLast }).config.vfOrderShift = .flagLast ∧
    other.config.vfOrderShift = .resultLast ∧ other.config.lowNibble59 = .mustBeZero ∧
    (other.placeWord 0x5000).fetchWord.toNat / 4096 = 5 ∧
    (other.placeWord 0x9FFF).fetchWord.toNat / 4096 = 9 ∧
    other.config.keyIndex = .faultAbove15 ∧ other.config.fontDigit = .refuseAbove15 ∧
    15 < ((other.setReg 4 16).reg 4).toNat ∧ (other.setI 0xFFE).dataAllowed 3 = false ∧
    (other.setI 0xFF1).dataAllowed ((15 : RegIx).val + 1) = false ∧
    (other.setI 0x1000).dataAllowed (1 : Nibble).toNat = false ∧
    (other.setPc 0xFFF).fetchAllowed = false ∧ (other.setPc 0xFFF).halt = none ∧
    (State.resetWith { Config.current with toneRounding := .nearest }).config.toneRounding = .nearest ∧
    other.config.toneRounding = .up := by decide

theorem witness_NothingElseFaults :
    (∃ t, exec .ret State.reset = .next t ∧ t.halt ≠ State.reset.halt) ∧
    ∃ t, exec (.call 0x300) (State.reset.setStack (List.replicate 16 0x202)) = .next t ∧
      t.halt ≠ none :=
  ⟨⟨_, rfl, by decide⟩, ⟨_, rfl, by decide⟩⟩

/-- For TableS1Frame, SoundTimerIsUnread and InputsReadOnlyAsListed: operations that answer a next state, one
that reads neither input among them. -/
theorem witness_exec_answers :
    (∃ t, exec (.ldVxMem 15) State.reset = .next t) ∧ (∃ t, exec (.ldStVx 15) State.reset = .next t) ∧
    (∃ t, exec (.drw 0 15 15) State.reset = .next t) ∧
    (∀ x, Instr.rnd 0 0xFF ≠ .skp x ∧ Instr.rnd 0 0xFF ≠ .sknp x) ∧
    ∀ x kk, Instr.skp 0 ≠ .rnd x kk :=
  ⟨⟨_, rfl⟩, ⟨_, rfl⟩, ⟨_, rfl⟩, fun _ => ⟨nofun, nofun⟩, fun _ _ => nofun⟩

theorem witness_PcMovesAsListed :
    (∃ t, exec (.skp 15) State.reset = .next t ∧ t.halt = State.reset.halt ∧ setsPc (.skp 15) = false ∧
      isReported (.skp 15) = false) ∧
    (∃ t, exec (.sys 0) State.reset = .next t) ∧ (∃ t, exec (.invalid 0xFFFF) other = .next t) ∧
    (∃ t, exec (.jp 0xFFF) State.reset = .next t) ∧ (∃ t, exec (.jpV0 0xFFF) State.reset = .next t) ∧
    (∃ t, exec (.call 0x300) (State.reset.setStack (List.replicate 15 0x202)) = .next t) ∧
    (∃ t, exec (.call 0x300) (State.reset.setStack (List.replicate 16 0x202)) = .next t) ∧
    (∃ t, exec .ret (State.reset.setStack [0x206]) = .next t) ∧
    ∃ t, exec .ret State.reset = .next t ∧ t.halt ≠ State.reset.halt :=
  ⟨⟨_, rfl, rfl, rfl, rfl⟩, ⟨_, rfl⟩, ⟨_, rfl⟩, ⟨_, rfl⟩, ⟨_, rfl⟩, ⟨_, rfl⟩, ⟨_, rfl⟩, ⟨_, rfl⟩,
    ⟨_, rfl, by decide⟩⟩

theorem witness_WaitSetAndClearedOnlyAsListed :
    (∃ t, step (placed 0xFF0A [.tick busyTick]) = .next t ∧ t.wait = some 15) ∧
    (∃ t, step (waiting [.keyPress 15]) = .next t ∧ t.wait ≠ some 3) ∧
    ∃ t, step (waiting [.reset []]) = .next t ∧ t.wait ≠ some 3 :=
  ⟨⟨_, rfl, rfl⟩, ⟨_, rfl, by decide⟩, ⟨_, rfl, by decide⟩⟩

theorem witness_DrewChangesOnlyAsListed :
    (∃ t, step (placed 0x00E0 [.tick busyTick]) = .next t ∧ t.drew = true) ∧
    (∃ t, step (placed 0xD000 [.tick busyTick]) = .next t ∧ t.drew = true) ∧
    (∃ t, step ((placed 0 [.renderAck]).setDrew true) = .next t ∧ t.drew = false) ∧
    ∃ t, step ((halted [.reset []]).setDrew true) = .next t ∧ t.drew = false :=
  ⟨⟨_, rfl, rfl⟩, ⟨_, rfl, rfl⟩, ⟨_, rfl, rfl⟩, ⟨_, rfl, rfl⟩⟩

theorem witness_NoProgressSituations :
    (halted [.tick busyTick]).situation = .faulted ∧ (waiting [.tick busyTick]).situation = .waiting ∧
    (placed 0x8128 [.tick busyTick]).situation = .stuckOnWord ∧
    (placed 0x0000 [.tick busyTick]).situation = .stuckOnWord ∧
    (placed 0x1200 [.tick busyTick]).situation = .parked ∧
    (placed 0x1202 [.tick busyTick]).situation = .progressing ∧
    (placed 0x1200 [.tick busyTick]).schedule = .tick busyTick :: [] ∧
    ((placed 0x1200 [.tick busyTick]).halt = none →
      (placed 0x1200 [.tick busyTick]).fetchAllowed = true) ∧
    ((other.placeWord 0x8128).setSchedule [.tick busyTick]).situation = .progressing := by decide

/-- States that meet the invariant: one waiting, one halted on an empty stack, one halted on a full one. -/
theorem witness_StepKeepsInvariant :
    (waiting [.keyPress 7]).Inv ∧ (halted [.renderAck]).Inv ∧
    ((((placed 0x2200 []).setStack (List.replicate 16 0x202)).takeFault .stackOverflow).Inv) ∧
    (((other.placeWord 0x2600).setStack [0x602, 0x602]).takeFault .stackOverflow).Inv ∧
    ∃ t, step (waiting [.keyPress 7]) = .next t := by
  refine ⟨⟨by decide, by decide, trivial, fun x h => ?_⟩,
    ⟨by decide, by decide, ⟨rfl, rfl, by decide⟩, nofun⟩,
    ⟨by decide, by decide, ⟨rfl, rfl, 0x200, by decide⟩, nofun⟩,
    ⟨by decide, by decide, ⟨rfl, rfl, 0x600, by decide⟩, nofun⟩, _, rfl⟩
  have hx : x = 3 := (Option.some.inj h).symm
  subst hx
  decide

theorem witness_EveryStepCompletesButOverlongReset :
    let long := List.replicate 3585 (0 : Byte)
    (nextHostStep (placed 0 [.reset long])).1 = .reset long ∧
    4096 - (placed 0 [.reset long]).config.progBase < long.length ∧
    (∀ rom, (nextHostStep (placed 0 [.reset []])).1 = .reset rom →
      rom.length ≤ 4096 - (placed 0 [.reset []]).config.progBase) ∧
    ∀ rom, (nextHostStep (placed 0 [])).1 = .reset rom →
      rom.length ≤ 4096 - (placed 0 []).config.progBase := by
  refine ⟨rfl, by rw [List.length_replicate]; decide, fun rom h => ?_, nofun⟩
  have : rom = [] := (HostStep.reset.inj h).symm
  subst this
  exact Nat.zero_le _

end Sys2Proof.Tests
end

/-! What an operation leaves unchanged: a frame for each update of the state, how frames compose, and what
an instruction that writes one register completes with. -/

namespace Sys2Proof.Machine

/-! ## Frames -/

section Frames

variable {s t u : State} {ps qs : List Part}

theorem Part.same_trans {p : Part} (h : p.same s t) (h' : p.same t u) : p.same s u := by
  cases p with
  | mem | regs => exact fun a => (h' a).trans (h a)
  | fb => exact fun row col => (h' row col).trans (h row col)
  | env => exact ⟨h'.1.trans h.1, h'.2.1.trans h.2.1, h'.2.2.trans h.2.2⟩
  | _ => exact Eq.trans h' h

theorem UnchangedBut.mono (h : UnchangedBut ps s t) (hsub : ps ⊆ qs) : UnchangedBut qs s t :=
  fun p hp => h p fun hmem => hp (hsub hmem)

/-- Two updates one after the other change only what one of them changes. -/
theorem UnchangedBut.trans (h : UnchangedBut ps s t) (h' : UnchangedBut qs t u) :
    UnchangedBut (ps ++ qs) s u := by
  intro p hp
  obtain ⟨hps, hqs⟩ := not_or.mp (mt List.mem_append.mpr hp)
  exact Part.same_trans (h p hps) (h' p hqs)

variable (s)

theorem advance_unchangedBut (d : Word) : UnchangedBut [.pc] s (s.advance d) := by
  intro p hp
  cases p with
  | pc => exact absurd List.mem_cons_self hp
  | _ => simp [Part.same, State.fbOut]

theorem setReg_unchangedBut (x : RegIx) (b : Byte) : UnchangedBut [.regs] s (s.setReg x b) := by
  intro p hp
  cases p with
  | regs => exact absurd List.mem_cons_self hp
  | _ => simp [Part.same, State.fbOut]

theorem setSt_unchangedBut (b : Byte) : UnchangedBut [.st] s (s.setSt b) := by
  intro p hp
  cases p with
  | st => exact absurd List.mem_cons_self hp
  | _ => simp [Part.same, State.fbOut]

theorem emit_unchangedBut (e : Event) : UnchangedBut [.event] s (s.emit e) := by
  intro p hp
  cases p with
  | event => exact absurd List.mem_cons_self hp
  | _ => simp [Part.same, State.fbOut]

/-- Two register writes, as of a result and a flag. -/
theorem setReg_setReg_unchangedBut (x y : RegIx) (b c : Byte) :
    UnchangedBut [.regs] s ((s.setReg x b).setReg y c) :=
  ((setReg_unchangedBut s x b).trans (setReg_unchangedBut _ y c)).mono (by decide)

theorem writeArith_unchangedBut (o : VfOrderArith) (x : RegIx) (r : Byte) (f : Bool) :
    UnchangedBut [.regs] s (s.writeArith o x r f) := by
  cases o <;> exact setReg_setReg_unchangedBut s _ _ _ _

theorem writeShift_unchangedBut (o : VfOrderShift) (x : RegIx) (out : Byte → Bool)
    (shift : Byte → Byte) : UnchangedBut [.regs] s (s.writeShift o x out shift) := by
  cases o <;> exact setReg_setReg_unchangedBut s _ _ _ _

end Frames

/-! ## Instructions that write one register -/

section CompletesWriting

variable {s u : State} {i : Instr} {x : RegIx} {n : Nat}

/-- An instruction that writes `V[x]` alone and goes on to the next instruction. -/
theorem completesWriting_of_exec (h : exec i s = .next (u.advance 2)) (hn : (u.reg x).toNat = n)
    (hregs : RegsUnchangedBut [x] s u) (hu : UnchangedBut [.regs] s u) : CompletesWriting i s x n := by
  have hpc : u.pc = s.pc := hu .pc (by decide)
  exact ⟨_, h, hn, congrArg (· + 2) hpc, hregs, hu.trans (advance_unchangedBut u 2)⟩

/-- With `x = 15` ADD, SUB and SUBN write no register but `VF`; with the result last it keeps the result
(R127). -/
theorem completesWriting_of_writeArith_resultLast {r : Byte} {f : Bool}
    (h : exec i s = .next ((s.writeArith s.config.vfOrderArith vf r f).advance 2))
    (ho : s.config.vfOrderArith = .resultLast) (hn : r.toNat = n) : CompletesWriting i s vf n := by
  refine completesWriting_of_exec h ?_ (fun j hj => ?_) (writeArith_unchangedBut s _ _ _ _)
  · rw [writeArith_reg, if_pos ⟨rfl, .inr ho⟩, hn]
  · have hj : j ≠ vf := by simpa using hj
    exact writeArith_reg_ne s _ r f hj hj

/-- With `x = 15` a shift writes no register but `VF`, in any order of its two writes (R135). -/
theorem completesWriting_of_writeShift_vf {out : Byte → Bool} {shift : Byte → Byte}
    (h : exec i s = .next ((s.writeShift s.config.vfOrderShift vf out shift).advance 2))
    (hn : ((s.writeShift s.config.vfOrderShift vf out shift).reg vf).toNat = n) :
    CompletesWriting i s vf n := by
  refine completesWriting_of_exec h hn (fun j hj => ?_) (writeShift_unchangedBut s _ _ _ _)
  have hj : j ≠ vf := by simpa using hj
  exact writeShift_reg_ne s _ out shift hj hj

end CompletesWriting

/-! ## Byte arithmetic as numbers (R126) -/

theorem byte_sub_toNat (a b : Byte) : (a - b).toNat = (256 + a.toNat - b.toNat) % 256 := by
  have hb := b.isLt
  rw [BitVec.toNat_sub]
  omega

theorem shiftRight_toNat (b : Byte) : (shiftRight b).toNat = b.toNat / 2 := by
  simp [shiftRight, Nat.shiftRight_eq_div_pow]

theorem shiftLeft_toNat (b : Byte) : (shiftLeft b).toNat = 2 * b.toNat % 256 := by
  simp [shiftLeft, Nat.shiftLeft_eq, Nat.mul_comm]

theorem flagByte_toNat (f : Bool) : (flagByte f).toNat = f.toNat := by cases f <;> rfl

/-- The bit a right shift loses is the value modulo 2. -/
theorem outRight_toNat (b : Byte) : (outRight b).toNat = b.toNat % 2 := by
  rw [outRight, BitVec.getLsbD, Nat.toNat_testBit, pow_zero, Nat.div_one]

/-- The bit a left shift loses is the upper half of the range. -/
theorem outLeft_toNat (b : Byte) : (outLeft b).toNat = b.toNat / 128 := by
  have hb := b.isLt
  rw [outLeft, BitVec.getLsbD, Nat.toNat_testBit]
  omega

end Sys2Proof.Machine

/-! O60: which steps of the host complete. -/

namespace Sys2Proof.Machine

section Completion

variable {s : State}

theorem exec_ret_completes (s : State) : ∃ t, exec .ret s = .next t := by
  cases h : s.stack with
  | nil => exact ⟨_, exec_ret_empty s h⟩
  | cons top rest => exact ⟨_, exec_ret_cons s h⟩

theorem exec_call_completes (nnn : Addr12) (s : State) : ∃ t, exec (.call nnn) s = .next t := by
  cases h : s.stackFull with
  | true => exact ⟨_, exec_call_full s nnn h⟩
  | false => exact ⟨_, exec_call_room s nnn h⟩

/-- Under the parameters that never stop, every instruction answers a next state (R196): a data access is
allowed, and every value names a key and a digit. -/
theorem exec_completes (h : s.config.neverStops) (i : Instr) : ∃ t, exec i s = .next t := by
  have hdata := dataAllowed_of_neverStops s h
  obtain ⟨-, hdigit, hkey⟩ := h
  cases i with
  | ret => exact exec_ret_completes s
  | call nnn => exact exec_call_completes nnn s
  | drw x y n => exact ⟨_, exec_drw s (hdata _)⟩
  | ldB x => exact ⟨_, exec_ldB s (hdata _)⟩
  | ldMemVx x => exact ⟨_, exec_ldMemVx s (hdata _)⟩
  | ldVxMem x => exact ⟨_, exec_ldVxMem s (hdata _)⟩
  | skp x => exact ⟨_, exec_skp s (keyIndex_eq_some (.inl hkey))⟩
  | sknp x => exact ⟨_, exec_sknp s (keyIndex_eq_some (.inl hkey))⟩
  | ldF x => exact ⟨_, exec_ldF s (fontDigit_eq_some (.inl hdigit))⟩
  | _ => exact ⟨_, rfl⟩

theorem tick_completes (h : s.config.neverStops) (inputs : TickIn) : ∃ t, tick inputs s = .next t := by
  have hfetch := fetchAllowed_of_neverStops s h
  by_cases hh : s.halt = none
  · by_cases hw : s.wait = none
    · rw [tick_running inputs ⟨hh, hw⟩ hfetch]
      exact exec_completes (s := (s.sample inputs).tickTimers) h _
    · exact ⟨_, tick_waiting inputs hh hw hfetch⟩
  · exact ⟨_, tick_halted inputs hh⟩

theorem keyPress_completes (k : KeyCode) (s : State) : ∃ t, keyPress k s = .next t := by
  by_cases hh : s.halt = none
  · cases hw : s.wait with
    | none => exact ⟨_, keyPress_not_waiting k hw⟩
    | some x => exact ⟨_, keyPress_waiting k hh hw⟩
  · exact ⟨_, keyPress_halted k hh⟩

theorem renderAck_completes (s : State) : ∃ t, renderAck s = .next t := by
  by_cases hh : s.halt = none
  · exact ⟨_, renderAck_not_halted hh⟩
  · exact ⟨_, renderAck_halted hh⟩

/-- Whichever step the host chooses completes, a Reset if its image fits (R221). -/
theorem runHostStep_completes (h : s.config.neverStops) {hs : HostStep}
    (hfit : ∀ rom, hs = .reset rom → rom.length ≤ s.config.romCapacity) :
    ∃ t, runHostStep hs s = .next t := by
  cases hs with
  | tick inputs => exact tick_completes (s := s.beginStep) h inputs
  | keyPress k => exact keyPress_completes k s.beginStep
  | renderAck => exact renderAck_completes s.beginStep
  | reset rom => exact ⟨_, resetStep_fits rom (hfit rom rfl)⟩

theorem nextHostStep_config (s : State) : (nextHostStep s).2.config = s.config := by
  obtain ⟨_, _, h⟩ := nextHostStep_state s
  simpa using congrArg State.config h

theorem step_reset_too_long {rom : List Byte} (hnext : (nextHostStep s).1 = .reset rom)
    (hlong : s.config.romCapacity < rom.length) : step s = .refused (.romTooLong rom.length) := by
  rw [← nextHostStep_config s] at hlong
  rw [step, hnext]
  exact resetStep_too_long rom hlong

end Completion

/-- Settles O60: a Reset is decided by the length of its image, and every other step ends in a next state. -/
theorem everyStepCompletesButOverlongReset : Obligations.EveryStepCompletesButOverlongReset := by
  unfold Obligations.EveryStepCompletesButOverlongReset
  intro s
  refine ⟨fun rom hnext hlong => step_reset_too_long hnext hlong, fun hstops hfit => ?_⟩
  rw [← nextHostStep_config s] at hstops hfit
  exact runHostStep_completes hstops hfit

end Sys2Proof.Machine

/-! O49: one lemma per parameter of table P1 that a clause gives another value. -/

namespace Sys2Proof

/-! ## `LOW_NIBBLE_5_9` (R81) -/

theorem fieldTop_eq_iff (w : Word) (op : Nibble) : fieldTop w = op ↔ w.toNat / 4096 = op.toNat := by
  have hw := w.isLt
  rw [← BitVec.toNat_inj, fieldTop, BitVec.extractLsb'_toNat, Nat.shiftRight_eq_div_pow]
  omega

theorem fieldN_eq_zero_iff (w : Word) : fieldN w = 0 ↔ w.toNat % 16 = 0 := by
  rw [← BitVec.toNat_inj, fieldN, BitVec.extractLsb'_toNat]
  rfl

/-- Outside 5xy_ and 9xy_ the policy takes no part in decoding. -/
theorem decodeWordWith_policy_irrelevant (p q : LowNibblePolicy) {w : Word} (h5 : fieldTop w ≠ 5)
    (h9 : fieldTop w ≠ 9) : decodeWordWith p w = decodeWordWith q w := by
  unfold decodeWordWith
  split
  case h_6 h => exact absurd h h5
  case h_10 h => exact absurd h h9
  all_goals rfl

theorem decodeWordWith_top5 (p : LowNibblePolicy) {w : Word} (h : fieldTop w = 5) :
    decodeWordWith p w = decode59 p .seReg w := by
  simp [decodeWordWith, h]

theorem decodeWordWith_top9 (p : LowNibblePolicy) {w : Word} (h : fieldTop w = 9) :
    decodeWordWith p w = decode59 p .sneReg w := by
  simp [decodeWordWith, h]

theorem decode59_mustBeZero (op : RegIx → RegIx → Nibble → Instr) (w : Word) :
    decode59 .mustBeZero op w = if fieldN w = 0 then decode59 .ignored op w else .invalid w := rfl

/-- The alternative policy rejects the words of 5xy_ and 9xy_ whose low nibble is not 0, and decodes every
other word as the default does. -/
theorem decodeWordWith_mustBeZero (w : Word) : decodeWordWith .mustBeZero w =
    if (fieldTop w = 5 ∨ fieldTop w = 9) ∧ fieldN w ≠ 0 then .invalid w else decodeWord w := by
  by_cases h5 : fieldTop w = 5
  · rw [decodeWord, decodeWordWith_top5 _ h5, decodeWordWith_top5 _ h5, decode59_mustBeZero]
    simp [h5, Config.current]
  by_cases h9 : fieldTop w = 9
  · rw [decodeWord, decodeWordWith_top9 _ h9, decodeWordWith_top9 _ h9, decode59_mustBeZero]
    simp [h9, Config.current]
  · rw [if_neg fun h => h.1.elim h5 h9]
    exact decodeWordWith_policy_irrelevant _ _ h5 h9

end Sys2Proof

namespace Sys2Proof.Machine

section Parameters

variable (s : State)

theorem fetched_mustBeZero (h : s.config.lowNibble59 = .mustBeZero) : s.fetched =
    if (s.fetchWord.toNat / 4096 = 5 ∨ s.fetchWord.toNat / 4096 = 9) ∧ s.fetchWord.toNat % 16 ≠ 0
    then .invalid s.fetchWord else decodeWord s.fetchWord := by
  rw [State.fetched, h, decodeWordWith_mustBeZero]
  simp only [fieldTop_eq_iff, ne_eq, fieldN_eq_zero_iff]
  rfl

/-! ## `INVALID_PC_POLICY` and `SYS_POLICY` (R185, R186) -/

theorem exec_invalid_advance2 (w : Word) (h : s.config.invalidPc = .advance2) :
    ∃ t, exec (.invalid w) s = .next t ∧ t.invalidOpcode = some (w, s.pc) ∧ t.pc = s.pc + 2 ∧
      UnchangedBut [.event, .pc] s t := by
  rw [exec_invalid, h]
  exact ⟨_, rfl, rfl, rfl, (emit_unchangedBut s _).trans (advance_unchangedBut _ 2)⟩

theorem exec_sys_ignore (nnn : Addr12) (h : s.config.sys = .ignore) :
    ∃ t, exec (.sys nnn) s = .next t ∧ t.pc = s.pc + 2 ∧ UnchangedBut [.pc] s t := by
  rw [exec_sys, h]
  exact ⟨_, rfl, rfl, advance_unchangedBut s 2⟩

theorem exec_sys_asInvalid (nnn : Addr12) (h : s.config.sys = .asInvalid) :
    exec (.sys nnn) s = exec (.invalid (encode (.sys nnn))) s := by
  rw [exec_sys, exec_invalid, h, sysOpcode_asInvalid]

/-! ## `VF_DEST_ORDER_ARITH` and `VF_DEST_ORDER_SHIFT` (R127, R135) -/

theorem arith_vf_resultLast (y : RegIx) (h : s.config.vfOrderArith = .resultLast) :
    CompletesWriting (.addReg vf y) s vf (((s.reg vf).toNat + (s.reg y).toNat) % 256) ∧
    CompletesWriting (.subReg vf y) s vf ((256 + (s.reg vf).toNat - (s.reg y).toNat) % 256) ∧
    CompletesWriting (.subn vf y) s vf ((256 + (s.reg y).toNat - (s.reg vf).toNat) % 256) :=
  ⟨completesWriting_of_writeArith_resultLast (exec_addReg s vf y) h (BitVec.toNat_add _ _),
    completesWriting_of_writeArith_resultLast (exec_subReg s vf y) h (byte_sub_toNat _ _),
    completesWriting_of_writeArith_resultLast (exec_subn s vf y) h (byte_sub_toNat _ _)⟩

theorem shifts_vf_flagLast (y : RegIx) (h : s.config.vfOrderShift = .flagLast) :
    CompletesWriting (.shr vf y) s vf ((s.reg vf).toNat % 2) ∧
    CompletesWriting (.shl vf y) s vf ((s.reg vf).toNat / 128) := by
  have hvf (out shift) : (s.writeShift s.config.vfOrderShift vf out shift).reg vf =
      flagByte (out (s.reg vf)) := h ▸ (writeShift_reg_vf s out shift).2.1
  refine ⟨completesWriting_of_writeShift_vf (exec_shr s vf y) ?_,
    completesWriting_of_writeShift_vf (exec_shl s vf y) ?_⟩
  · rw [hvf, flagByte_toNat, outRight_toNat]
  · rw [hvf, flagByte_toNat, outLeft_toNat]

theorem shifts_vf_resultLast (y : RegIx) (h : s.config.vfOrderShift = .resultLast) :
    CompletesWriting (.shr vf y) s vf ((s.reg vf).toNat / 2) ∧
    CompletesWriting (.shl vf y) s vf (2 * (s.reg vf).toNat % 256) := by
  have hvf (out shift) : (s.writeShift s.config.vfOrderShift vf out shift).reg vf =
      shift (s.reg vf) := h ▸ (writeShift_reg_vf s out shift).2.2
  refine ⟨completesWriting_of_writeShift_vf (exec_shr s vf y) ?_,
    completesWriting_of_writeShift_vf (exec_shl s vf y) ?_⟩
  · rw [hvf, shiftRight_toNat]
  · rw [hvf, shiftLeft_toNat]

/-! ## `KEY_INDEX_POLICY` and `FONT_DIGIT_POLICY` (R155, R176) -/

theorem skips_fault_above15 {x : RegIx} (hx : 15 < (s.reg x).toNat)
    (h : s.config.keyIndex = .faultAbove15) :
    exec (.skp x) s = .fault (.keyIndexAbove15 x) ∧ exec (.sknp x) s = .fault (.keyIndexAbove15 x) := by
  have hkey : keyIndex s.config.keyIndex (s.reg x) = none := h ▸ (keyIndex_faultAbove15_none _).mpr hx
  exact ⟨exec_skp_fault s hkey, exec_sknp_fault s hkey⟩

theorem ldF_refused_above15 {x : RegIx} (hx : 15 < (s.reg x).toNat)
    (h : s.config.fontDigit = .refuseAbove15) : exec (.ldF x) s = .refused (.fontDigitAbove15 x) :=
  exec_ldF_refused s (h ▸ (fontDigit_refuseAbove15_none _).mpr hx)

/-! ## `ADDR_WRAP` (R52, D8) -/

/-- An access is allowed exactly under the default policy or when each of its bytes exists. -/
theorem accessAllowed_iff (p : AddrWrap) (a n : Nat) :
    accessAllowed p a n = true ↔ p = .modulo ∨ ∀ k, k < n → a + k ≤ 4095 := by
  cases p with
  | modulo => simp
  | refuseAbove =>
    rw [accessAllowed_refuseAbove, memSize]
    constructor
    · intro h
      exact .inr fun k hk => by omega
    · rintro (h | h)
      · contradiction
      · by_contra hn
        have := h (n - 1) (by omega)
        omega

theorem fetchAllowed_iff :
    s.fetchAllowed = true ↔ s.config.addrWrap = .modulo ∨ s.pc.toNat + 1 ≤ 4095 := by
  rw [State.fetchAllowed, accessAllowed_iff]
  exact or_congr_right ⟨fun h => h 1 (by decide), fun h k hk => by omega⟩

theorem step_fetch_refused {inputs : TickIn} {rest : List HostStep} (hf : s.fetchAllowed = false)
    (hh : s.halt = none) (hs : s.schedule = .tick inputs :: rest) :
    step s = .refused (.addressAbove4095 s.pc.toNat 2) := by
  rw [step_scheduled hs]
  exact tick_fetch_refused (s := (s.setSchedule rest).beginStep) inputs hh hf

/-! ## `TONE_ROUNDING` (R177, D28, log 20) -/

theorem toneMs_nearest_bounds (b : Byte) : 60 * (toneMs .nearest b).toNat ≤ 1000 * b.toNat + 30 ∧
    1000 * b.toNat < 60 * (toneMs .nearest b).toNat + 30 := by
  have hb := b.isLt
  rw [toneMs, BitVec.toNat_ofNat, Nat.mod_eq_of_lt (by omega)]
  omega

theorem toneMs_up_bounds (b : Byte) : 1000 * b.toNat ≤ 60 * (toneMs .up b).toNat ∧
    60 * (toneMs .up b).toNat < 1000 * b.toNat + 60 := by
  have hb := b.isLt
  rw [toneMs, BitVec.toNat_ofNat, Nat.mod_eq_of_lt (by omega)]
  omega

/-- LD ST, Vx under any rounding: the timer, the request and `PC`, and nothing else (R172). -/
theorem exec_ldStVx_completes (x : RegIx) : ∃ t, exec (.ldStVx x) s = .next t ∧ t.st = s.reg x ∧
    t.toneRequest = some (toneMs s.config.toneRounding (s.reg x)) ∧ t.pc = s.pc + 2 ∧
    UnchangedBut [.st, .event, .pc] s t :=
  ⟨_, exec_ldStVx s x, rfl, rfl, rfl,
    ((setSt_unchangedBut s _).trans (emit_unchangedBut _ _)).trans (advance_unchangedBut _ 2)⟩

end Parameters

/-- Settles O49: the clauses in the order of the statement, each by the lemma of its parameter. -/
theorem parameterAlternatives : Obligations.ParameterAlternatives := by
  unfold Obligations.ParameterAlternatives
  refine ⟨exec_invalid_advance2, fun s nnn => ⟨exec_sys_ignore s nnn, exec_sys_asInvalid s nnn⟩,
    arith_vf_resultLast, fun s y => ⟨shifts_vf_flagLast s y, shifts_vf_resultLast s y⟩,
    fetched_mustBeZero, fun s x hx => ⟨skips_fault_above15 s hx, ldF_refused_above15 s hx⟩,
    fun s n => accessAllowed_iff _ _ n, fun s x y n => ⟨exec_ldB_refused s,
      fun h => ⟨exec_ldMemVx_refused s h, exec_ldVxMem_refused s h⟩, exec_drw_refused s⟩,
    fun s => ⟨fetchAllowed_iff s, fun hf hh inputs rest hs => step_fetch_refused s hf hh hs⟩,
    fun s x => ?_⟩
  obtain ⟨t, ht, hst, htone, hpc, hframe⟩ := exec_ldStVx_completes s x
  exact ⟨t, _, ht, hst, htone, hpc, hframe, fun h => h ▸ toneMs_nearest_bounds _,
    fun h => h ▸ toneMs_up_bounds _⟩

end Sys2Proof.Machine

/-! What the frames of the operations come to: each instruction's completion against its row of table S1, and
what follows for the parts only some instructions write. -/

namespace Sys2Proof.Machine

/-! ## Frames of the other updates -/

section MoreFrames

variable (s : State)

theorem setI_unchangedBut (a : Word) : UnchangedBut [.index] s (s.setI a) := by
  intro p hp
  cases p with
  | index => exact absurd List.mem_cons_self hp
  | _ => simp [Part.same, State.fbOut]

theorem setPc_unchangedBut (a : Word) : UnchangedBut [.pc] s (s.setPc a) := by
  intro p hp
  cases p with
  | pc => exact absurd List.mem_cons_self hp
  | _ => simp [Part.same, State.fbOut]

theorem setDt_unchangedBut (b : Byte) : UnchangedBut [.dt] s (s.setDt b) := by
  intro p hp
  cases p with
  | dt => exact absurd List.mem_cons_self hp
  | _ => simp [Part.same, State.fbOut]

theorem setWait_unchangedBut (w : Option RegIx) : UnchangedBut [.wait] s (s.setWait w) := by
  intro p hp
  cases p with
  | wait => exact absurd List.mem_cons_self hp
  | _ => simp [Part.same, State.fbOut]

theorem setDrew_unchangedBut (b : Bool) : UnchangedBut [.drew] s (s.setDrew b) := by
  intro p hp
  cases p with
  | drew => exact absurd List.mem_cons_self hp
  | _ => simp [Part.same, State.fbOut]

theorem setFb_unchangedBut (fb : FrameBuffer) : UnchangedBut [.fb] s (s.setFb fb) := by
  intro p hp
  cases p with
  | fb => exact absurd List.mem_cons_self hp
  | _ => simp [Part.same]

theorem setStack_unchangedBut (l : List Word) : UnchangedBut [.stack] s (s.setStack l) := by
  intro p hp
  cases p with
  | stack => exact absurd List.mem_cons_self hp
  | _ => simp [Part.same, State.fbOut]

theorem takeFault_unchangedBut (k : HaltKind) : UnchangedBut [.halt] s (s.takeFault k) := by
  intro p hp
  cases p with
  | halt => exact absurd List.mem_cons_self hp
  | _ => simp [Part.same, State.fbOut]

theorem writeBytes_unchangedBut (a : Nat) (vs : List Byte) :
    UnchangedBut [.mem] s (s.writeBytes a vs) := by
  intro p hp
  cases p with
  | mem => exact absurd List.mem_cons_self hp
  | _ => simp [Part.same, State.fbOut]

theorem loadRegs_unchangedBut (a k : Nat) : UnchangedBut [.regs] s (s.loadRegs a k) := by
  intro p hp
  cases p with
  | regs => exact absurd List.mem_cons_self hp
  | _ => simp [Part.same, State.fbOut]

theorem unrecognizedOpcode_unchangedBut (p : InvalidPcPolicy) (w : Word) :
    UnchangedBut (unrecognizedParts p) s (s.unrecognizedOpcode p w) := by
  cases p with
  | stay => exact emit_unchangedBut s _
  | advance2 => exact (emit_unchangedBut s _).trans (advance_unchangedBut _ 2)

theorem sysOpcode_unchangedBut (p : SysPolicy) (q : InvalidPcPolicy) (nnn : Addr12) :
    UnchangedBut (sysParts p q) s (s.sysOpcode p q nnn) := by
  cases p with
  | asInvalid => exact unrecognizedOpcode_unchangedBut s q _
  | ignore => exact advance_unchangedBut s 2

end MoreFrames

/-! ## What a completed operation can have done (R25, R37) -/

/-- The memory of `t` is that of `s` after consecutive bytes, possibly none, were written to it. -/
def StoresBytes (s t : State) : Prop := ∃ a vs, t.mem = Memory.writeBytes s.config s.mem a vs

theorem storesBytes_of_mem_eq {s t : State} (h : t.mem = s.mem) : StoresBytes s t := ⟨0, [], h⟩

/-- `t` is a state the operation `i` may lead to from `s`: it differs from `s` by the row of table S1, its
memory by stores, and `PC` has moved by 2, or by 4 for a skip, where `i` neither sets `PC` itself nor
reports an unrecognized opcode. -/
structure ListedEffect (i : Instr) (s t : State) : Prop where
  frame : UnchangedBut (tableS1Parts s.config i) s t
  regs : RegsUnchangedBut (tableS1Regs i) s t
  stores : StoresBytes s t
  pc : setsPc i = false → isReported i = false → t.pc = s.pc + 2 ∨ (isSkip i = true ∧ t.pc = s.pc + 4)

section ListedEffect

variable {s t u : State} {i : Instr} {ps : List Part}

/-- An operation that makes `u` of `s` without touching `PC` and goes on to the next instruction. -/
theorem listedEffect_advance (hu : UnchangedBut ps s u) (hps : .pc ∉ ps)
    (hrow : tableS1Parts s.config i = ps ++ [.pc]) (hregs : RegsUnchangedBut (tableS1Regs i) s u)
    (hmem : StoresBytes s u) : ListedEffect i s (u.advance 2) where
  frame := hrow ▸ hu.trans (advance_unchangedBut u 2)
  regs := hregs
  stores := hmem
  pc _ _ := .inl (congrArg (· + 2) (hu .pc hps))

/-- The same for an operation that writes no register. -/
theorem listedEffect_advance_noRegs (hu : UnchangedBut ps s u) (hps : .pc ∉ ps ∧ .regs ∉ ps)
    (hrow : tableS1Parts s.config i = ps ++ [.pc]) (hmem : StoresBytes s u) :
    ListedEffect i s (u.advance 2) :=
  listedEffect_advance hu hps.1 hrow (fun j _ => hu .regs hps.2 j) hmem

theorem listedEffect_skip (taken : Bool) (hrow : tableS1Parts s.config i = [.pc]) (hskip : isSkip i = true) :
    ListedEffect i s (s.advance (skipDistance taken)) where
  frame := hrow ▸ advance_unchangedBut s _
  regs _ _ := rfl
  stores := storesBytes_of_mem_eq rfl
  pc _ _ := by
    cases taken with
    | false => exact .inl rfl
    | true => exact .inr ⟨hskip, rfl⟩

/-- An operation that writes one register. -/
theorem listedEffect_setReg {x : RegIx} (b : Byte) (hrow : tableS1Parts s.config i = [.regs, .pc])
    (hregs : tableS1Regs i = [x]) : ListedEffect i s ((s.setReg x b).advance 2) := by
  refine listedEffect_advance (setReg_unchangedBut s x b) (by decide) hrow (fun j hj => ?_)
    (storesBytes_of_mem_eq rfl)
  exact State.setReg_reg_ne s b (by simpa [hregs] using hj)

/-- An operation that writes a result and the flag, in whatever order (R127, R135). -/
theorem listedEffect_resultAndFlag {x : RegIx} (hu : UnchangedBut [.regs] s u)
    (hreg : ∀ j, j ≠ x → j ≠ vf → u.reg j = s.reg j) (hmem : u.mem = s.mem)
    (hrow : tableS1Parts s.config i = [.regs, .pc]) (hregs : tableS1Regs i = [x, vf]) :
    ListedEffect i s (u.advance 2) := by
  refine listedEffect_advance hu (by decide) hrow (fun j hj => ?_) (storesBytes_of_mem_eq hmem)
  obtain ⟨hx, hv⟩ : j ≠ x ∧ j ≠ vf := by simpa [hregs] using hj
  exact hreg j hx hv

/-- An operation that moves `PC` to a place of its own choosing or reports an unrecognized opcode. -/
theorem listedEffect_of_frame (hframe : UnchangedBut (tableS1Parts s.config i) s t)
    (hregs : .regs ∉ tableS1Parts s.config i) (hmem : t.mem = s.mem)
    (hi : setsPc i = true ∨ isReported i = true) : ListedEffect i s t where
  frame := hframe
  regs j _ := hframe .regs hregs j
  stores := storesBytes_of_mem_eq hmem
  pc hset hrep := by rcases hi with hi | hi <;> simp [hi] at hset hrep

end ListedEffect

/-! ## Which rows of table S1 hold a part -/

section Rows

variable {c : Config} {i : Instr}

theorem unrecognizedParts_subset (p : InvalidPcPolicy) : unrecognizedParts p ⊆ [.event, .pc] := by
  cases p <;> decide

theorem sysParts_subset (p : SysPolicy) (q : InvalidPcPolicy) : sysParts p q ⊆ [.event, .pc] := by
  cases p with
  | asInvalid => exact unrecognizedParts_subset q
  | ignore => simp [sysParts]

/-- Neither policy makes SYS or INVALID write a part but the event and `PC` (R185, R186). -/
theorem part_mem_reported {p : Part} (hi : isReported i = true) (hp : p ∈ tableS1Parts c i) :
    p = .event ∨ p = .pc := by
  cases i with
  | sys nnn => simpa using sysParts_subset c.sys c.invalidPc hp
  | invalid w => simpa using unrecognizedParts_subset c.invalidPc hp
  | _ => cases hi

/-- R31: the one row with `WAIT` is that of LD Vx, K. -/
theorem ldVxK_of_wait_mem (h : .wait ∈ tableS1Parts c i) : ∃ x, i = .ldVxK x := by
  cases i with
  | ldVxK x => exact ⟨x, rfl⟩
  | sys | invalid => simpa using part_mem_reported rfl h
  | _ => simp [tableS1Parts] at h

/-- R32: the rows with `DREW` are those of CLS and DRW. -/
theorem cls_or_drw_of_drew_mem (h : .drew ∈ tableS1Parts c i) : i = .cls ∨ ∃ x y n, i = .drw x y n := by
  cases i with
  | cls => exact .inl rfl
  | drw x y n => exact .inr ⟨x, y, n, rfl⟩
  | sys | invalid => simpa using part_mem_reported rfl h
  | _ => simp [tableS1Parts] at h

/-- R26, R33: the rows with the stack or the halt latch are those of CALL and RET. -/
theorem ret_or_call_of_mem (h : .stack ∈ tableS1Parts c i ∨ .halt ∈ tableS1Parts c i) :
    i = .ret ∨ ∃ nnn, i = .call nnn := by
  cases i with
  | ret => exact .inl rfl
  | call nnn => exact .inr ⟨nnn, rfl⟩
  | sys | invalid => rcases h with h | h <;> simpa using part_mem_reported rfl h
  | _ => simp [tableS1Parts] at h

end Rows

/-! ## The effect of every operation -/

section Effects

variable {s t : State} {i : Instr}

theorem ldVxMem_listedEffect (x : RegIx) (a : Nat) :
    ListedEffect (.ldVxMem x) s ((s.loadRegs a (x.val + 1)).advance 2) := by
  refine listedEffect_advance (loadRegs_unchangedBut s a _) (by decide) rfl (fun j hj => ?_)
    (storesBytes_of_mem_eq (loadRegs_mem s a _))
  have hlt : ¬ j.val < x.val + 1 := fun hlt =>
    hj (List.mem_map.mpr ⟨j.val, List.mem_range.mpr hlt, Fin.ofNat_val_eq_self j⟩)
  rw [loadRegs_reg s a _ x.isLt j, if_neg hlt]

theorem drw_listedEffect (x y : RegIx) (n : Nibble) (d : Drawing) :
    ListedEffect (.drw x y n) s
      ((((s.setFb d.1).setReg vf (flagByte d.2)).setDrew true).advance 2) := by
  refine listedEffect_advance (((setFb_unchangedBut s _).trans (setReg_unchangedBut _ vf _)).trans
    (setDrew_unchangedBut _ true)) (by decide) rfl (fun j hj => ?_) (storesBytes_of_mem_eq rfl)
  exact State.setReg_reg_ne (s.setFb d.1) _ (by simpa [tableS1Regs] using hj)

theorem ret_cases (h : exec .ret s = .next t) :
    (s.stack = [] ∧ t = s.takeFault .stackUnderflow) ∨
    ∃ top rest, s.stack = top :: rest ∧ t = (s.setStack rest).setPc top := by
  cases hs : s.stack with
  | nil => cases (exec_ret_empty s hs).symm.trans h; exact .inl ⟨rfl, rfl⟩
  | cons top rest => cases (exec_ret_cons s hs).symm.trans h; exact .inr ⟨top, rest, rfl, rfl⟩

theorem call_cases {nnn : Addr12} (h : exec (.call nnn) s = .next t) :
    (s.config.stackDepth ≤ s.sp ∧ t = s.takeFault .stackOverflow) ∨
    (s.sp < s.config.stackDepth ∧ t = (s.push (s.pc + 2)).setPc (zextAddr nnn)) := by
  cases hf : s.stackFull with
  | true =>
    cases (exec_call_full s nnn hf).symm.trans h
    exact .inl ⟨(stackFull_iff s).mp hf, rfl⟩
  | false =>
    cases (exec_call_room s nnn hf).symm.trans h
    exact .inr ⟨(stackFull_eq_false_iff s).mp hf, rfl⟩

theorem ret_listedEffect (h : exec .ret s = .next t) : ListedEffect .ret s t := by
  rcases ret_cases h with ⟨-, rfl⟩ | ⟨top, rest, -, rfl⟩
  · exact listedEffect_of_frame ((takeFault_unchangedBut s _).mono (by simp [tableS1Parts]))
      (by simp [tableS1Parts]) rfl (.inl rfl)
  · exact listedEffect_of_frame (((setStack_unchangedBut s _).trans (setPc_unchangedBut _ _)).mono
      (by simp [tableS1Parts])) (by simp [tableS1Parts]) rfl (.inl rfl)

theorem call_listedEffect {nnn : Addr12} (h : exec (.call nnn) s = .next t) :
    ListedEffect (.call nnn) s t := by
  rcases call_cases h with ⟨-, rfl⟩ | ⟨-, rfl⟩
  · exact listedEffect_of_frame ((takeFault_unchangedBut s _).mono (by simp [tableS1Parts]))
      (by simp [tableS1Parts]) rfl (.inl rfl)
  · exact listedEffect_of_frame (((setStack_unchangedBut s _).trans (setPc_unchangedBut _ _)).mono
      (by simp [tableS1Parts])) (by simp [tableS1Parts]) rfl (.inl rfl)

/-- SYS and INVALID write what their policies say (R185, R186). -/
theorem reported_listedEffect (hi : isReported i = true)
    (hframe : UnchangedBut (tableS1Parts s.config i) s t) (hmem : t.mem = s.mem) : ListedEffect i s t :=
  listedEffect_of_frame hframe (fun h => by simpa using part_mem_reported hi h) hmem (.inr hi)

/-- What every operation that answers a next state has done: each by the lemma of its form. -/
theorem exec_listedEffect (h : exec i s = .next t) : ListedEffect i s t := by
  cases i with
  | ret => exact ret_listedEffect h
  | call nnn => exact call_listedEffect h
  | sys nnn =>
    cases (exec_sys s nnn).symm.trans h
    exact reported_listedEffect rfl (sysOpcode_unchangedBut s _ _ nnn) (sysOpcode_mem s _ _ nnn)
  | invalid w =>
    cases (exec_invalid s w).symm.trans h
    exact reported_listedEffect rfl (unrecognizedOpcode_unchangedBut s _ w) (unrecognizedOpcode_mem s _ w)
  | jp | jpV0 =>
    cases h
    exact listedEffect_of_frame (setPc_unchangedBut s _) (by simp [tableS1Parts]) rfl (.inl rfl)
  | seImm | sneImm | seReg | sneReg => cases h; exact listedEffect_skip _ rfl rfl
  | skp x => obtain ⟨k, -, rfl⟩ := (exec_skp_eq_next s).mp h; exact listedEffect_skip _ rfl rfl
  | sknp x => obtain ⟨k, -, rfl⟩ := (exec_sknp_eq_next s).mp h; exact listedEffect_skip _ rfl rfl
  | ldImm | addImm | ldReg | orReg | andReg | xorReg | rnd | ldVxDt =>
    cases h
    exact listedEffect_setReg _ rfl rfl
  | addReg | subReg | subn =>
    cases h
    exact listedEffect_resultAndFlag (writeArith_unchangedBut s _ _ _ _)
      (fun j => writeArith_reg_ne s _ _ _) (writeArith_mem s _ _ _ _) rfl rfl
  | shr | shl =>
    cases h
    exact listedEffect_resultAndFlag (writeShift_unchangedBut s _ _ _ _)
      (fun j => writeShift_reg_ne s _ _ _) (writeShift_mem s _ _ _ _) rfl rfl
  | ldI | addI =>
    cases h
    exact listedEffect_advance_noRegs (setI_unchangedBut s _) (by decide) rfl (storesBytes_of_mem_eq rfl)
  | ldF x =>
    obtain ⟨d, -, rfl⟩ := (exec_ldF_eq_next s).mp h
    exact listedEffect_advance_noRegs (setI_unchangedBut s _) (by decide) rfl (storesBytes_of_mem_eq rfl)
  | cls =>
    cases h
    exact listedEffect_advance_noRegs ((setFb_unchangedBut s _).trans (setDrew_unchangedBut _ true))
      (by decide) rfl (storesBytes_of_mem_eq rfl)
  | drw x y n => obtain ⟨-, rfl⟩ := (exec_drw_eq_next s).mp h; exact drw_listedEffect x y n _
  | ldVxMem x => obtain ⟨-, rfl⟩ := (exec_ldVxMem_eq_next s).mp h; exact ldVxMem_listedEffect x _
  | ldB x =>
    obtain ⟨-, rfl⟩ := (exec_ldB_eq_next s).mp h
    exact listedEffect_advance_noRegs (writeBytes_unchangedBut s _ _) (by decide) rfl ⟨_, _, rfl⟩
  | ldMemVx x =>
    obtain ⟨-, rfl⟩ := (exec_ldMemVx_eq_next s).mp h
    exact listedEffect_advance_noRegs (writeBytes_unchangedBut s _ _) (by decide) rfl ⟨_, _, rfl⟩
  | ldVxK x =>
    cases h
    exact listedEffect_advance_noRegs (setWait_unchangedBut s _) (by decide) rfl (storesBytes_of_mem_eq rfl)
  | ldDtVx x =>
    cases h
    exact listedEffect_advance_noRegs (setDt_unchangedBut s _) (by decide) rfl (storesBytes_of_mem_eq rfl)
  | ldStVx x =>
    cases h
    exact listedEffect_advance_noRegs ((setSt_unchangedBut s _).trans (emit_unchangedBut _ _))
      (by decide) rfl (storesBytes_of_mem_eq rfl)

end Effects

end Sys2Proof.Machine

/-! The statements about single operations, from the effect of an operation: O51, O52, O55. -/

namespace Sys2Proof.Machine

section Operations

variable {s t : State} {i : Instr}

/-- A part that an operation changed is in its row of table S1. -/
theorem mem_tableS1Parts_of_changed {p : Part} (h : exec i s = .next t) (hp : ¬ p.same s t) :
    p ∈ tableS1Parts s.config i :=
  not_imp_comm.mp ((exec_listedEffect h).frame p) hp

/-- Only RET on an empty stack and CALL on a full one change the latch, and they do nothing else (R191 to
R194). -/
theorem exec_halt_changed (h : exec i s = .next t) (hh : t.halt ≠ s.halt) :
    (i = .ret ∧ s.stack = [] ∧ t = s.takeFault .stackUnderflow) ∨
    ((∃ nnn, i = .call nnn) ∧ s.config.stackDepth ≤ s.sp ∧ t = s.takeFault .stackOverflow) := by
  obtain rfl | ⟨nnn, rfl⟩ := ret_or_call_of_mem (.inr (mem_tableS1Parts_of_changed (p := .halt) h hh))
  · rcases ret_cases h with ⟨hs, ht⟩ | ⟨top, rest, -, rfl⟩
    · exact .inl ⟨rfl, hs, ht⟩
    · exact absurd rfl hh
  · rcases call_cases h with ⟨hs, ht⟩ | ⟨-, rfl⟩
    · exact .inr ⟨⟨nnn, rfl⟩, hs, ht⟩
    · exact absurd rfl hh

/-- Only LD Vx, K changes `WAIT` (R31, R175). -/
theorem exec_wait_changed (h : exec i s = .next t) (hw : t.wait ≠ s.wait) :
    ∃ x, i = .ldVxK x ∧ t = (s.setWait (some x)).advance 2 := by
  obtain ⟨x, rfl⟩ := ldVxK_of_wait_mem (mem_tableS1Parts_of_changed (p := .wait) h hw)
  cases (exec_ldVxK s x).symm.trans h
  exact ⟨x, rfl, rfl⟩

/-- Only CLS and DRW change `DREW`, and they set it (R32, D24). -/
theorem exec_drew_changed (h : exec i s = .next t) (hd : t.drew ≠ s.drew) :
    t.drew = true ∧ ((∃ x y n, i = .drw x y n) ∨ i = .cls) := by
  obtain rfl | ⟨x, y, n, rfl⟩ := cls_or_drw_of_drew_mem (mem_tableS1Parts_of_changed (p := .drew) h hd)
  · cases (exec_cls s).symm.trans h
    exact ⟨rfl, .inr rfl⟩
  · obtain ⟨-, rfl⟩ := (exec_drw_eq_next s).mp h
    exact ⟨rfl, .inl ⟨x, y, n, rfl⟩⟩

/-- An operation keeps the stack within its depth: CALL pushes only where there is room (R26, R192). -/
theorem exec_sp_le_stackDepth (h : exec i s = .next t) (hs : s.sp ≤ s.config.stackDepth) :
    t.sp ≤ s.config.stackDepth := by
  by_cases hst : t.stack = s.stack
  · rwa [State.sp, hst]
  obtain rfl | ⟨nnn, rfl⟩ := ret_or_call_of_mem (.inl (mem_tableS1Parts_of_changed (p := .stack) h hst))
  · rcases ret_cases h with ⟨-, rfl⟩ | ⟨top, rest, hcons, rfl⟩
    · exact hs
    · rw [State.sp, hcons] at hs
      exact Nat.le_of_succ_le hs
  · rcases call_cases h with ⟨-, rfl⟩ | ⟨hroom, rfl⟩
    · exact hs
    · exact hroom

/-! ## Where `PC` goes (R25) -/

/-- The 12-bit address and the byte added to it stay below 65536, so JP V0 does not wrap. -/
theorem zextAddr_add_zextByte_toNat (nnn : Addr12) (b : Byte) :
    (zextAddr nnn + zextByte b).toNat = nnn.toNat + b.toNat := by
  have hn := nnn.isLt
  have hb := b.isLt
  rw [BitVec.toNat_add, zextAddr_toNat, zextByte_toNat]
  omega

theorem exec_call_pc {nnn : Addr12} (h : exec (.call nnn) s = .next t) :
    t.pc.toNat = if s.sp < s.config.stackDepth then nnn.toNat else s.pc.toNat := by
  rcases call_cases h with ⟨hfull, rfl⟩ | ⟨hroom, rfl⟩
  · rw [if_neg (Nat.not_lt.mpr hfull), State.takeFault_pc]
  · rw [if_pos hroom, State.setPc_pc, zextAddr_toNat]

theorem exec_ret_pc (h : exec .ret s = .next t) :
    some t.pc = if s.sp = 0 then some s.pc else s.stackEntry (s.sp - 1) := by
  rcases ret_cases h with ⟨hs, rfl⟩ | ⟨top, rest, hs, rfl⟩
  · simp [State.sp, hs]
  · have hsp : s.sp = rest.length + 1 := by simp [State.sp, hs]
    rw [hsp, if_neg (Nat.succ_ne_zero _), Nat.add_sub_cancel, top_stackEntry s hs, State.setPc_pc]

theorem exec_invalid_pc {w : Word} (h : exec (.invalid w) s = .next t) :
    t.pc = if s.config.invalidPc = .stay then s.pc else s.pc + 2 := by
  cases (exec_invalid s w).symm.trans h
  cases hp : s.config.invalidPc <;> simp

theorem exec_sys_pc {nnn : Addr12} (h : exec (.sys nnn) s = .next t) :
    t.pc = if s.config.sys = .asInvalid ∧ s.config.invalidPc = .stay then s.pc else s.pc + 2 := by
  cases hs : s.config.sys with
  | asInvalid => simpa using exec_invalid_pc (exec_sys_asInvalid s nnn hs ▸ h)
  | ignore =>
    rw [exec_sys, hs] at h
    cases h
    simp

theorem exec_pc_of_halt_changed (h : exec i s = .next t) (hh : t.halt ≠ s.halt) : t.pc = s.pc := by
  rcases exec_halt_changed h hh with ⟨-, -, rfl⟩ | ⟨-, -, rfl⟩ <;> rfl

end Operations

/-- Settles O51: both halves are the frame of the operation's effect. -/
theorem tableS1Frame : Obligations.TableS1Frame := by
  unfold Obligations.TableS1Frame
  intro i s t h
  exact ⟨(exec_listedEffect h).frame, (exec_listedEffect h).regs⟩

/-- Settles O52: the clauses in the order of the statement, each by the lemma of its instruction. -/
theorem pcMovesAsListed : Obligations.PcMovesAsListed := by
  unfold Obligations.PcMovesAsListed
  intro i s t h
  refine ⟨fun _ => (exec_listedEffect h).pc, ?_, ?_, ?_, ?_, ?_, ?_, exec_pc_of_halt_changed h⟩
  · rintro nnn rfl
    cases (exec_jp s nnn).symm.trans h
    exact zextAddr_toNat nnn
  · rintro nnn rfl
    cases (exec_jpV0 s nnn).symm.trans h
    exact zextAddr_add_zextByte_toNat nnn _
  · rintro nnn rfl
    exact exec_call_pc h
  · rintro rfl
    exact exec_ret_pc h
  · rintro w rfl
    exact exec_invalid_pc h
  · rintro nnn rfl
    exact exec_sys_pc h

/-! ## `ST` is not read (R30) -/

section SoundTimer

variable {s t : State} (b : Byte)

theorem writeArith_setSt (o : VfOrderArith) (x : RegIx) (r : Byte) (f : Bool) :
    (s.setSt b).writeArith o x r f = (s.writeArith o x r f).setSt b := by
  cases o <;> rfl

theorem writeShift_setSt (o : VfOrderShift) (x : RegIx) (out : Byte → Bool) (shift : Byte → Byte) :
    (s.setSt b).writeShift o x out shift = (s.writeShift o x out shift).setSt b := by
  cases o <;> rfl

theorem loadRegs_setSt (a k : Nat) : (s.setSt b).loadRegs a k = (s.loadRegs a k).setSt b := by
  induction k with
  | zero => rfl
  | succ k ih =>
    rw [State.loadRegs, ih]
    rfl

theorem unrecognizedOpcode_setSt (p : InvalidPcPolicy) (w : Word) :
    (s.setSt b).unrecognizedOpcode p w = (s.unrecognizedOpcode p w).setSt b := by
  cases p <;> rfl

theorem sysOpcode_setSt (p : SysPolicy) (q : InvalidPcPolicy) (nnn : Addr12) :
    (s.setSt b).sysOpcode p q nnn = (s.sysOpcode p q nnn).setSt b := by
  cases p with
  | asInvalid => exact unrecognizedOpcode_setSt b q _
  | ignore => rfl

theorem exec_ret_setSt (h : exec .ret s = .next t) : exec .ret (s.setSt b) = .next (t.setSt b) := by
  rcases ret_cases h with ⟨hs, rfl⟩ | ⟨top, rest, hs, rfl⟩
  · exact exec_ret_empty (s.setSt b) hs
  · exact exec_ret_cons (s.setSt b) hs

theorem exec_call_setSt {nnn : Addr12} (h : exec (.call nnn) s = .next t) :
    exec (.call nnn) (s.setSt b) = .next (t.setSt b) := by
  rcases call_cases h with ⟨hs, rfl⟩ | ⟨hs, rfl⟩
  · exact exec_call_full (s.setSt b) nnn ((stackFull_iff s).mpr hs)
  · exact exec_call_room (s.setSt b) nnn ((stackFull_eq_false_iff s).mpr hs)

end SoundTimer

/-- Settles O55: an instruction's update is made of parts other than `ST`, so the new `ST` goes through it;
LD ST, Vx alone writes over it. -/
theorem soundTimerIsUnread : Obligations.SoundTimerIsUnread := by
  unfold Obligations.SoundTimerIsUnread
  intro i s t b h
  cases i with
  | ldStVx => cases h; rfl
  | ret => exact exec_ret_setSt b h
  | call nnn => exact exec_call_setSt b h
  | sys nnn => cases h; exact congrArg _ (sysOpcode_setSt b _ _ nnn)
  | invalid w => cases h; exact congrArg _ (unrecognizedOpcode_setSt b _ w)
  | addReg | subReg | subn =>
    cases h
    exact congrArg (fun u => Host.Outcome.next (State.advance u 2)) (writeArith_setSt b _ _ _ _)
  | shr | shl =>
    cases h
    exact congrArg (fun u => Host.Outcome.next (State.advance u 2)) (writeShift_setSt b _ _ _ _)
  | skp x =>
    obtain ⟨k, hk, rfl⟩ := (exec_skp_eq_next s).mp h
    exact (exec_skp_eq_next _).mpr ⟨k, hk, rfl⟩
  | sknp x =>
    obtain ⟨k, hk, rfl⟩ := (exec_sknp_eq_next s).mp h
    exact (exec_sknp_eq_next _).mpr ⟨k, hk, rfl⟩
  | ldF x =>
    obtain ⟨d, hd, rfl⟩ := (exec_ldF_eq_next s).mp h
    exact (exec_ldF_eq_next _).mpr ⟨d, hd, rfl⟩
  | drw x y n =>
    obtain ⟨ha, rfl⟩ := (exec_drw_eq_next s).mp h
    exact (exec_drw_eq_next _).mpr ⟨ha, rfl⟩
  | ldB x =>
    obtain ⟨ha, rfl⟩ := (exec_ldB_eq_next s).mp h
    exact (exec_ldB_eq_next _).mpr ⟨ha, rfl⟩
  | ldMemVx x =>
    obtain ⟨ha, rfl⟩ := (exec_ldMemVx_eq_next s).mp h
    exact (exec_ldMemVx_eq_next _).mpr ⟨ha, rfl⟩
  | ldVxMem x =>
    obtain ⟨ha, rfl⟩ := (exec_ldVxMem_eq_next s).mp h
    exact (exec_ldVxMem_eq_next _).mpr ⟨ha, (congrArg (·.advance 2) (loadRegs_setSt b _ _)).symm⟩
  | cls | jp | seImm | sneImm | seReg | ldImm | addImm | ldReg | orReg | andReg | xorReg | sneReg | ldI
  | jpV0 | rnd | ldVxDt | ldVxK | ldDtVx | addI => cases h; rfl

end Sys2Proof.Machine

/-! What one step of the host can do, and what follows for the latches: O9, O53, O54. -/

namespace Sys2Proof.Machine

section Steps

variable {s t : State}

/-- The body of a step begins from the state with the pulses over and the step taken off the schedule. -/
theorem nextHostStep_begun (s : State) : ∃ n, (nextHostStep s).2.beginStep =
    { s with event := none, schedule := s.schedule.tail, tickNo := n } := by
  unfold nextHostStep
  cases hs : s.schedule with
  | nil => exact ⟨s.tickNo + 1, by simp [State.countTick, State.beginStep, hs]⟩
  | cons h rest => exact ⟨s.tickNo, rfl⟩

/-- `t` is what the body of a host step, begun from `s`, ends in (R103, R107, R108, R220). -/
inductive StepEffect (s : State) : HostStep → State → Prop where
  | tickHalted (inputs : TickIn) (hh : s.halt ≠ none) : StepEffect s (.tick inputs) (s.sample inputs)
  | tickWaiting (inputs : TickIn) (hh : s.halt = none) (hw : s.wait ≠ none) :
    StepEffect s (.tick inputs) (s.sample inputs).tickTimers
  | tickRunning (inputs : TickIn) (t : State) (hr : s.running)
    (hx : exec s.fetched (s.sample inputs).tickTimers = .next t) : StepEffect s (.tick inputs) t
  | keyPressIdle (k : KeyCode) (hi : s.halt ≠ none ∨ s.wait = none) : StepEffect s (.keyPress k) s
  | keyPressResolves (k : KeyCode) (x : RegIx) (hh : s.halt = none) (hw : s.wait = some x) :
    StepEffect s (.keyPress k) ((s.setReg x (zextKey k)).setWait none)
  | renderAckHalted (hh : s.halt ≠ none) : StepEffect s .renderAck s
  | renderAck (hh : s.halt = none) : StepEffect s .renderAck (s.setDrew false)
  | reset (rom : List Byte) : StepEffect s (.reset rom) (s.afterReset rom)

theorem tick_stepEffect {inputs : TickIn} (h : tick inputs s = .next t) :
    StepEffect s (.tick inputs) t := by
  rcases tick_cases h with ⟨hh, rfl⟩ | ⟨hh, hw, -, rfl⟩ | ⟨hr, -, hx⟩
  · exact .tickHalted inputs hh
  · exact .tickWaiting inputs hh hw
  · exact .tickRunning inputs t hr hx

theorem keyPress_stepEffect {k : KeyCode} (h : keyPress k s = .next t) :
    StepEffect s (.keyPress k) t := by
  by_cases hh : s.halt = none
  · cases hw : s.wait with
    | none =>
      cases (keyPress_not_waiting k hw).symm.trans h
      exact .keyPressIdle k (.inr hw)
    | some x =>
      cases (keyPress_waiting k hh hw).symm.trans h
      exact .keyPressResolves k x hh hw
  · cases (keyPress_halted k hh).symm.trans h
    exact .keyPressIdle k (.inl hh)

theorem renderAck_stepEffect (h : renderAck s = .next t) : StepEffect s .renderAck t := by
  by_cases hh : s.halt = none
  · cases (renderAck_not_halted hh).symm.trans h
    exact .renderAck hh
  · cases (renderAck_halted hh).symm.trans h
    exact .renderAckHalted hh

theorem resetStep_stepEffect {rom : List Byte} (h : resetStep rom s = .next t) :
    StepEffect s (.reset rom) t := by
  unfold resetStep at h
  split at h <;> cases h
  exact .reset rom

/-- What every step that answers a next state has done. -/
theorem step_cases (h : step s = .next t) : ∃ hs n, (nextHostStep s).1 = hs ∧
    StepEffect { s with event := none, schedule := s.schedule.tail, tickNo := n } hs t := by
  obtain ⟨n, hn⟩ := nextHostStep_begun s
  refine ⟨_, n, rfl, ?_⟩
  rw [← hn]
  unfold step runHostStep at h
  split at h
  case h_1 hs => exact hs ▸ tick_stepEffect h
  case h_2 hs => exact hs ▸ keyPress_stepEffect h
  case h_3 hs => exact hs ▸ renderAck_stepEffect h
  case h_4 hs => exact hs ▸ resetStep_stepEffect h

/-! ## While a fault is latched (R33, R194) -/

/-- The body of a step other than Reset does nothing but sample a tick's inputs. -/
theorem runHostStep_halted {hs : HostStep} (hh : s.halt ≠ none) (hreset : ∀ rom, hs ≠ .reset rom) :
    ∃ ports, runHostStep hs s = .next (s.beginStep.sample ports) := by
  have hh' : s.beginStep.halt ≠ none := hh
  cases hs with
  | tick inputs => exact ⟨inputs, tick_halted inputs hh'⟩
  | keyPress k => exact ⟨s.ports, keyPress_halted k hh'⟩
  | renderAck => exact ⟨s.ports, renderAck_halted hh'⟩
  | reset rom => exact absurd rfl (hreset rom)

/-- The pulses and the model's own fields, whatever is put into them. -/
theorem ownFields_unchangedBut (s : State) (e : Option Event) (ports : TickIn) (l : List HostStep) (n : Nat) :
    UnchangedBut [.event, .env] s { s with event := e, ports := ports, schedule := l, tickNo := n } := by
  intro p hp
  cases p with
  | event | env => simp at hp
  | mem | regs => exact fun _ => rfl
  | fb => exact fun _ _ => rfl
  | _ => rfl

theorem nextHostStep_halt (s : State) : (nextHostStep s).2.halt = s.halt := by
  obtain ⟨_, h⟩ := nextHostStep_begun s
  simpa using congrArg State.halt h

theorem step_halted (hh : s.halt ≠ none) (hreset : ∀ rom, (nextHostStep s).1 ≠ .reset rom) :
    ∃ ports n, step s =
      .next { s with event := none, ports := ports, schedule := s.schedule.tail, tickNo := n } := by
  rw [← nextHostStep_halt s] at hh
  obtain ⟨ports, hrun⟩ := runHostStep_halted hh hreset
  obtain ⟨n, hn⟩ := nextHostStep_begun s
  rw [hn] at hrun
  exact ⟨ports, n, hrun⟩

/-! ## When `WAIT` and `DREW` change (R31, R32) -/

/-- In a step `WAIT` changes by LD Vx, K, by the KeyPress that resolves the wait, or by Reset. -/
theorem step_wait_changed (h : step s = .next t) (hw : t.wait ≠ s.wait) :
    (∃ x inputs, (nextHostStep s).1 = .tick inputs ∧ s.running ∧ s.fetched = .ldVxK x ∧
      t.wait = some x) ∨
    (∃ k x, (nextHostStep s).1 = .keyPress k ∧ s.wait = some x ∧ t.wait = none ∧
      (t.reg x).toNat = k.toNat) ∨
    ∃ rom, (nextHostStep s).1 = .reset rom ∧ t.wait = none := by
  obtain ⟨hs, n, hnext, he⟩ := step_cases h
  cases he with
  | tickHalted | tickWaiting | keyPressIdle | renderAckHalted | renderAck => exact absurd rfl hw
  | tickRunning inputs _ hr hx =>
    obtain ⟨x, hfetched, rfl⟩ := exec_wait_changed hx hw
    exact .inl ⟨x, inputs, hnext, hr, hfetched, rfl⟩
  | keyPressResolves k x _ hwait =>
    exact .inr (.inl ⟨k, x, hnext, hwait, rfl, by simp⟩)
  | reset rom => exact .inr (.inr ⟨rom, hnext, rfl⟩)

/-- In a step `DREW` is set by CLS or DRW, cleared by RenderAck or put at its reset value. -/
theorem step_drew_changed (h : step s = .next t) (hd : t.drew ≠ s.drew) :
    (t.drew = true ∧ s.running ∧ ((∃ x y n, s.fetched = .drw x y n) ∨ s.fetched = .cls)) ∨
    (t.drew = false ∧ ((nextHostStep s).1 = .renderAck ∨ ∃ rom, (nextHostStep s).1 = .reset rom)) := by
  obtain ⟨hs, n, hnext, he⟩ := step_cases h
  cases he with
  | tickHalted | tickWaiting | keyPressIdle | keyPressResolves | renderAckHalted => exact absurd rfl hd
  | tickRunning inputs _ hr hx =>
    obtain ⟨hset, hinstr⟩ := exec_drew_changed hx hd
    exact .inl ⟨hset, hr, hinstr⟩
  | renderAck => exact .inr ⟨rfl, .inl hnext⟩
  | reset rom => exact .inr ⟨rfl, .inr ⟨rom, hnext⟩⟩

end Steps

/-- Settles O9: the step ends in the state itself, but for the pulses and the model's own fields. -/
theorem haltedStepsChangeNothing : Obligations.HaltedStepsChangeNothing := by
  unfold Obligations.HaltedStepsChangeNothing
  intro s hh hreset
  obtain ⟨ports, n, hstep⟩ := step_halted hh hreset
  exact ⟨_, hstep, ownFields_unchangedBut s _ _ _ _, rfl, rfl⟩

/-- Settles O53: of the three ways `WAIT` changes, LD Vx, K alone begins a wait, and it needs none pending. -/
theorem waitSetAndClearedOnlyAsListed : Obligations.WaitSetAndClearedOnlyAsListed := by
  unfold Obligations.WaitSetAndClearedOnlyAsListed
  intro s t h
  refine ⟨fun x hs ht => ?_, fun x hs ht => ?_⟩
  · rcases step_wait_changed h (by simp [hs, ht]) with
      ⟨y, inputs, hnext, hr, hfetched, hwait⟩ | ⟨k, y, -, hwait, -, -⟩ | ⟨rom, -, hwait⟩
    · obtain rfl : x = y := Option.some.inj (ht.symm.trans hwait)
      exact ⟨hr.1, hfetched, inputs, hnext⟩
    · cases hs.symm.trans hwait
    · cases ht.symm.trans hwait
  · rcases step_wait_changed h (by rwa [hs]) with
      ⟨y, inputs, -, hr, -, -⟩ | ⟨k, y, hnext, hwait, hnone, hreg⟩ | ⟨rom, hnext, hnone⟩
    · cases hs.symm.trans hr.2
    · obtain rfl : x = y := Option.some.inj (hs.symm.trans hwait)
      exact ⟨hnone, .inl ⟨k, hnext, hreg⟩⟩
    · exact ⟨hnone, .inr ⟨rom, hnext⟩⟩

/-- Settles O54: the two ways `DREW` changes are told apart by the value it ends with. -/
theorem drewChangesOnlyAsListed : Obligations.DrewChangesOnlyAsListed := by
  unfold Obligations.DrewChangesOnlyAsListed
  intro s t h
  refine ⟨fun hs ht => ?_, fun hs ht => ?_⟩
  · rcases step_drew_changed h (by simp [hs, ht]) with ⟨-, hset⟩ | ⟨hfalse, -⟩
    · exact hset
    · cases ht.symm.trans hfalse
  · rcases step_drew_changed h (by simp [hs, ht]) with ⟨htrue, -⟩ | ⟨-, hcleared⟩
    · cases ht.symm.trans htrue
    · exact hcleared

end Sys2Proof.Machine

/-! The reset state and the invariant of a run: O15, O58, O59. -/

namespace Sys2Proof.Machine

/-! ## The reset state (R36, table S2) -/

theorem resetWith_readByte (c : Config) {a : Nat} (ha : a < memSize) :
    (State.resetWith c).readByte a = c.resetByte a :=
  congrArg c.resetByte (Memory.wrapAddr_of_lt ha)

theorem current_resetByte (a : Nat) :
    Config.current.resetByte a = Config.current.fontData.getD a 0 := if_pos (Nat.zero_le a)

theorem current_fontData_length : Config.current.fontData.length = 80 := rfl

theorem resetWith_reg (c : Config) (x : RegIx) : (State.resetWith c).reg x = 0 := by
  simp [State.reg, State.resetWith, Vector.get_eq_getElem]

theorem resetWith_fbOut (c : Config) (row : Fin 32) (col : Fin 64) :
    (State.resetWith c).fbOut row col = false := by
  simp [State.fbOut, FrameBuffer.cell, State.resetWith, Vector.get_eq_getElem]

theorem reset_readByte_font {a : Nat} (ha : a < 80) :
    State.reset.readByte a = Config.current.fontData.getD a 0 :=
  (resetWith_readByte _ (by rw [memSize]; omega)).trans (current_resetByte a)

theorem reset_readByte_zero {a : Nat} (hfont : 80 ≤ a) (ha : a < 4096) : State.reset.readByte a = 0 := by
  rw [State.reset, resetWith_readByte _ ha, current_resetByte,
    List.getD_eq_default _ _ (by rwa [current_fontData_length])]

/-! ## The invariant of a run -/

section Invariant

variable {s t : State}

/-- The invariant asks for memory and the stack alone where nothing is latched. -/
theorem inv_of_not_latched (hmem : Memory.wf s.config s.mem) (hsp : s.sp ≤ s.config.stackDepth)
    (hh : s.halt = none) (hw : s.wait = none) : s.Inv where
  memory := hmem
  stackBound := hsp
  haltLatch := by simp [State.haltCoherent, hh]
  waitState x hx := by cases hw.symm.trans hx

/-- Samples, timers and the model's own fields take no part in the invariant. -/
theorem State.Inv.sample (h : s.Inv) (inputs : TickIn) : (s.sample inputs).Inv :=
  ⟨h.memory, h.stackBound, h.haltLatch, h.waitState⟩

theorem State.Inv.tickTimers (h : s.Inv) : s.tickTimers.Inv :=
  ⟨h.memory, h.stackBound, h.haltLatch, h.waitState⟩

theorem State.Inv.setDrew (h : s.Inv) (b : Bool) : (s.setDrew b).Inv :=
  ⟨h.memory, h.stackBound, h.haltLatch, h.waitState⟩

theorem State.Inv.begun (h : s.Inv) (l : List HostStep) (n : Nat) :
    State.Inv { s with event := none, schedule := l, tickNo := n } :=
  ⟨h.memory, h.stackBound, h.haltLatch, h.waitState⟩

theorem resetWith_inv (c : Config) : (State.resetWith c).Inv :=
  inv_of_not_latched (reset_memory_wf c) (Nat.zero_le _) rfl rfl

theorem afterReset_inv (s : State) (rom : List Byte) : (s.afterReset rom).Inv :=
  inv_of_not_latched (afterReset_memory_wf rom) (Nat.zero_le _) rfl rfl

/-- A KeyPress ends the wait and latches nothing (R107). -/
theorem keyPressed_inv (h : s.Inv) (hh : s.halt = none) (x : RegIx) (b : Byte) :
    ((s.setReg x b).setWait none).Inv :=
  inv_of_not_latched h.memory h.stackBound hh rfl

/-- The instruction that began the wait is two bytes back (R175). -/
theorem waitBegun_inv {x : RegIx} (h : s.Inv) (hh : s.halt = none) (hi : s.fetched = .ldVxK x) :
    ((s.setWait (some x)).advance 2).Inv where
  memory := h.memory
  stackBound := h.stackBound
  haltLatch := by simp [State.haltCoherent, hh]
  waitState y hy := by
    obtain rfl : x = y := Option.some.inj hy
    refine ⟨hh, ?_⟩
    have hpc : s.pc + 2 - 2 = s.pc := BitVec.add_sub_cancel _ _
    show (s.setPc (s.pc + 2 - 2)).fetched = .ldVxK x
    rw [hpc]
    exact hi

/-- The faulting instruction is the one at `PC`, which a fault leaves alone (R191, R194). -/
theorem underflow_inv (h : s.Inv) (hw : s.wait = none) (hi : s.fetched = .ret) (hs : s.stack = []) :
    (s.takeFault .stackUnderflow).Inv where
  memory := h.memory
  stackBound := h.stackBound
  haltLatch := ⟨rfl, by simp [State.sp, hs], hi⟩
  waitState x hx := by cases hw.symm.trans hx

/-- A full stack holds exactly its depth, since the invariant bounds it (R192, R194). -/
theorem overflow_inv (h : s.Inv) (hw : s.wait = none) (hi : ∃ nnn, s.fetched = .call nnn)
    (hs : s.config.stackDepth ≤ s.sp) : (s.takeFault .stackOverflow).Inv where
  memory := h.memory
  stackBound := h.stackBound
  haltLatch := ⟨rfl, Nat.le_antisymm h.stackBound hs, hi⟩
  waitState x hx := by cases hw.symm.trans hx

/-- Stores keep the canonical form of memory. -/
theorem StoresBytes.memory_wf (h : StoresBytes s t) (hm : Memory.wf s.config s.mem) :
    Memory.wf s.config t.mem := by
  obtain ⟨a, vs, ht⟩ := h
  rw [ht]
  exact Memory.wf_writeBytes a vs hm

/-- The fetched instruction keeps the invariant of a running machine: either it latches a fault, or it begins
a wait, or it latches nothing. -/
theorem exec_fetched_inv (h : s.Inv) (hr : s.running) (hx : exec s.fetched s = .next t) : t.Inv := by
  obtain ⟨hh, hw⟩ := hr
  by_cases hth : t.halt = none
  · by_cases htw : t.wait = none
    · have hc := exec_config s hx
      exact inv_of_not_latched (hc ▸ (exec_listedEffect hx).stores.memory_wf h.memory)
        (hc ▸ exec_sp_le_stackDepth hx h.stackBound) hth htw
    · obtain ⟨x, hi, rfl⟩ := exec_wait_changed hx (by rwa [hw])
      exact waitBegun_inv h hh hi
  · rcases exec_halt_changed hx (by rwa [hh]) with ⟨hi, hs, rfl⟩ | ⟨hi, hs, rfl⟩
    · exact underflow_inv h hw hi hs
    · exact overflow_inv h hw hi hs

theorem stepEffect_inv {hs : HostStep} (h : s.Inv) (he : StepEffect s hs t) : t.Inv := by
  cases he with
  | tickHalted inputs => exact h.sample inputs
  | tickWaiting inputs => exact (h.sample inputs).tickTimers
  | tickRunning inputs _ hr hx => exact exec_fetched_inv (h.sample inputs).tickTimers hr hx
  | keyPressIdle | renderAckHalted => exact h
  | keyPressResolves k x hh => exact keyPressed_inv h hh x _
  | renderAck => exact h.setDrew false
  | reset rom => exact afterReset_inv s rom

end Invariant

/-- Settles O59: whatever the step's body does, it keeps the invariant of the state it begins from. -/
theorem stepKeepsInvariant : Obligations.StepKeepsInvariant := by
  unfold Obligations.StepKeepsInvariant
  intro s t h hstep
  obtain ⟨hs, n, -, he⟩ := step_cases hstep
  exact stepEffect_inv (h.begun _ n) he

/-- Settles O58: the reset state lists no cell, holds no stack entry and latches nothing. -/
theorem invariantAtReset : Obligations.InvariantAtReset := by
  unfold Obligations.InvariantAtReset
  exact ⟨resetWith_inv _, resetWith_inv⟩

/-- Settles O15: what is read of the reset state by the lemmas above, the other values as they stand. -/
theorem resetStateIsTableS2 : Obligations.ResetStateIsTableS2 := by
  unfold Obligations.ResetStateIsTableS2
  refine ⟨resetWith_reg _, rfl, rfl, rfl, resetWith_fbOut _, rfl, rfl, rfl, rfl, rfl, rfl,
    fun a ha => reset_readByte_font ha, fun a hfont ha => reset_readByte_zero hfont ha,
    rfl, current_fontData_length, ?_⟩
  exact ⟨rfl, rfl, rfl, rfl, rfl, rfl, rfl, rfl, rfl, rfl, rfl, rfl⟩

end Sys2Proof.Machine

/-! The instruction whose bytes are at `PC`: what is fetched and decoded, and what a tick does with it: O39,
O7, O8. -/

namespace Sys2Proof

/-! ## The dispatch of a word by its fields (R75 to R82) -/

theorem decodeWordWith_top0 (p : LowNibblePolicy) {w : Word} (h : fieldTop w = 0) :
    decodeWordWith p w = decode0 w := by
  simp [decodeWordWith, h]

theorem decodeWordWith_top8 (p : LowNibblePolicy) {w : Word} (h : fieldTop w = 8) :
    decodeWordWith p w = decode8 w := by
  simp [decodeWordWith, h]

theorem decodeWordWith_topE (p : LowNibblePolicy) {w : Word} (h : fieldTop w = 0xE) :
    decodeWordWith p w = decodeE w := by
  simp [decodeWordWith, h]

theorem decodeWordWith_topF (p : LowNibblePolicy) {w : Word} (h : fieldTop w = 0xF) :
    decodeWordWith p w = decodeF w := by
  simp [decodeWordWith, h]

theorem decode8_of_not_mem {w : Word} (h : fieldN w ∉ family8LowNibbles) : decode8 w = .invalid w := by
  unfold decode8
  split <;> simp_all [family8LowNibbles]

theorem decodeE_of_not_mem {w : Word} (h : fieldKk w ∉ familyELowBytes) : decodeE w = .invalid w := by
  unfold decodeE
  split <;> simp_all [familyELowBytes]

theorem decodeF_of_not_mem {w : Word} (h : fieldKk w ∉ familyFLowBytes) : decodeF w = .invalid w := by
  unfold decodeF
  split <;> simp_all [familyFLowBytes]

theorem unrecognized_iff (p : LowNibblePolicy) (w : Word) : unrecognized p w = true ↔
    (fieldTop w = 8 ∧ fieldN w ∉ family8LowNibbles) ∨
    (fieldTop w = 0xE ∧ fieldKk w ∉ familyELowBytes) ∨
    (fieldTop w = 0xF ∧ fieldKk w ∉ familyFLowBytes) ∨
    (p = .mustBeZero ∧ (fieldTop w = 5 ∨ fieldTop w = 9) ∧ fieldN w ≠ 0) := by
  simp [unrecognized, fieldTop, fieldN, fieldKk, or_assoc, and_assoc]

/-- The words well-formedness lists for INVALID decode to it (R82, and R81 under `must_be_zero`). -/
theorem decodeWordWith_unrecognized {p : LowNibblePolicy} {w : Word} (h : unrecognized p w = true) :
    decodeWordWith p w = .invalid w := by
  rcases (unrecognized_iff p w).mp h with ⟨h8, hn⟩ | ⟨hE, hkk⟩ | ⟨hF, hkk⟩ | ⟨rfl, htop, hn⟩
  · exact (decodeWordWith_top8 p h8).trans (decode8_of_not_mem hn)
  · exact (decodeWordWith_topE p hE).trans (decodeE_of_not_mem hkk)
  · exact (decodeWordWith_topF p hF).trans (decodeF_of_not_mem hkk)
  · exact (decodeWordWith_mustBeZero w).trans (if_pos ⟨htop, hn⟩)

/-! ## Decoding an encoded instruction (R74, tables E1 and E2) -/

theorem encA_injective (op : Nibble) : Function.Injective (encA op) :=
  Function.LeftInverse.injective (fieldNnn_encA op)

/-- SYS with an address other than those of CLS and RET is read back (R77). -/
theorem decode0_encA {nnn : Addr12} (hcls : nnn ≠ 0x0E0) (hret : nnn ≠ 0x0EE) :
    decode0 (encA 0 nnn) = .sys nnn := by
  have hcls' : encA 0 nnn ≠ 0x00E0#16 := (encA_injective 0).ne hcls
  have hret' : encA 0 nnn ≠ 0x00EE#16 := (encA_injective 0).ne hret
  rw [decode0, if_neg hcls', if_neg hret', fieldNnn_encA]

/-- Under `must_be_zero` the one low nibble read back is 0 (R81). -/
theorem decode59_encR {p : LowNibblePolicy} (op : RegIx → RegIx → Nibble → Instr) (top : Nibble)
    (x y : RegIx) {z : Nibble} (hz : p = .ignored ∨ z = 0) :
    decode59 p op (encR top x y z) = op x y z := by
  have hop : op (fieldX (encR top x y z)) (fieldY (encR top x y z)) (fieldN (encR top x y z)) =
      op x y z := by
    rw [fieldX_encR, fieldY_encR, fieldN_encR]
  cases p with
  | ignored => exact hop
  | mustBeZero =>
    have hz0 : z = 0 := hz.resolve_left (by decide)
    exact (if_pos ((fieldN_encR top x y z).trans hz0)).trans hop

/-- Every well-formed instruction is read back from its word with every operand, under either policy. -/
theorem decodeWordWith_encode {p : LowNibblePolicy} {i : Instr} (h : i.wfWith p = true) :
    decodeWordWith p (encode i) = i := by
  cases i with
  | cls | ret => rfl
  | invalid w => exact decodeWordWith_unrecognized h
  | sys nnn =>
    obtain ⟨hcls, hret⟩ : nnn ≠ 0x0E0 ∧ nnn ≠ 0x0EE := by simpa [Instr.wfWith] using h
    exact (decodeWordWith_top0 p (fieldTop_encA 0 nnn)).trans (decode0_encA hcls hret)
  | seReg x y z =>
    have hz : p = .ignored ∨ z = 0 := by simpa [Instr.wfWith] using h
    exact (decodeWordWith_top5 p (fieldTop_encR 5 x y z)).trans (decode59_encR .seReg 5 x y hz)
  | sneReg x y z =>
    have hz : p = .ignored ∨ z = 0 := by simpa [Instr.wfWith] using h
    exact (decodeWordWith_top9 p (fieldTop_encR 9 x y z)).trans (decode59_encR .sneReg 9 x y hz)
  | jp | call | ldI | jpV0 => simp [encode, decodeWordWith, fieldTop_encA, fieldNnn_encA]
  | seImm | sneImm | ldImm | addImm | rnd =>
    simp [encode, decodeWordWith, fieldTop_encI, fieldX_encI, fieldKk_encI]
  | drw => simp [encode, decodeWordWith, fieldTop_encR, fieldX_encR, fieldY_encR, fieldN_encR]
  | ldReg | orReg | andReg | xorReg | addReg | subReg | shr | subn | shl =>
    rw [encode, decodeWordWith_top8 p (fieldTop_encR 8 _ _ _)]
    simp [decode8, fieldX_encR, fieldY_encR, fieldN_encR]
  | skp | sknp =>
    rw [encode, decodeWordWith_topE p (fieldTop_encI 0xE _ _)]
    simp [decodeE, fieldX_encI, fieldKk_encI]
  | ldVxDt | ldVxK | ldDtVx | ldStVx | addI | ldF | ldB | ldMemVx | ldVxMem =>
    rw [encode, decodeWordWith_topF p (fieldTop_encI 0xF _ _)]
    simp [decodeF, fieldX_encI, fieldKk_encI]

/-! ## Two bytes as a word (R53) -/

theorem wordOfBytes_toNat (hi lo : Byte) : (wordOfBytes hi lo).toNat = 256 * hi.toNat + lo.toNat := by
  have hlo := lo.isLt
  rw [wordOfBytes, BitVec.toNat_append, ← Nat.shiftLeft_add_eq_or_of_lt hlo, Nat.shiftLeft_eq,
    Nat.mul_comm]

theorem wordOfBytes_of_bytesOfWord {hi lo : Byte} {w : Word} (h : [hi, lo] = bytesOfWord w) :
    wordOfBytes hi lo = w := by
  obtain ⟨rfl, rfl⟩ : hi = w.extractLsb' 8 8 ∧ lo = w.extractLsb' 0 8 := by
    simpa [bytesOfWord] using h
  exact wordOfBytes_bytesOfWord w

end Sys2Proof

namespace Sys2Proof.Machine

section Fetch

variable {s : State} {i : Instr}

/-! ## The fetch (R53) -/

theorem fetchWord_eq (s : State) :
    s.fetchWord = wordOfBytes (s.readByte s.pc.toNat) (s.readByte (s.pc.toNat + 1)) := rfl

theorem fetchWord_toNat (s : State) : s.fetchWord.toNat =
    256 * (s.readByte s.pc.toNat).toNat + (s.readByte (s.pc.toNat + 1)).toNat :=
  wordOfBytes_toNat _ _

/-- What is fetched and decoded where the bytes of a well-formed instruction lie is that instruction. -/
theorem fetched_of_encodeBytes (hwf : i.wfWith s.config.lowNibble59 = true)
    (hb : [s.readByte s.pc.toNat, s.readByte (s.pc.toNat + 1)] = encodeBytes i) : s.fetched = i := by
  rw [State.fetched, fetchWord_eq, wordOfBytes_of_bytesOfWord hb, decodeWordWith_encode hwf]

/-- The registers a bulk store wrote are read back, wherever the cells wrap (R52, R153). -/
theorem writeBytes_regsUpTo_readByte (hm : Memory.wf s.config s.mem) (a : Nat) {x k : RegIx}
    (hk : k.val ≤ x.val) : (s.writeBytes a (s.regsUpTo x)).readByte (a + k.val) = s.reg k := by
  have hx := x.isLt
  have hlen := regsUpTo_length s x
  have hfits : (s.regsUpTo x).length ≤ memSize := by rw [hlen, memSize]; omega
  have hlt : k.val < (s.regsUpTo x).length := by omega
  exact (Memory.readByte_writeBytes_at a hm hfits hlt).trans (regsUpTo_getElem s x k hlt)

/-! ## The tick that runs it (R103, R106, R200) -/

theorem countDown_eq (due : Bool) (b : Byte) :
    countDown due b = if due = true ∧ b ≠ 0 then b - 1 else b := by
  simp [countDown, and_comm]

/-- A tick's sampled inputs and its timer advance, field by field. -/
theorem sample_tickTimers (s : State) (inputs : TickIn) : (s.sample inputs).tickTimers =
    { s with
      ports := inputs
      dt := if inputs.timerDue = true ∧ s.dt ≠ 0 then s.dt - 1 else s.dt
      st := if soundDue s.config.timerDueShared inputs = true ∧ s.st ≠ 0 then s.st - 1 else s.st } := by
  rw [← countDown_eq, ← countDown_eq]
  rfl

/-- A running tick at the bytes of a well-formed instruction executes it after sampling its inputs
and advancing the timers. -/
theorem tick_of_encodeBytes (inputs : TickIn) (hr : s.running) (hf : s.fetchAllowed = true)
    (hwf : i.wfWith s.config.lowNibble59 = true)
    (hb : [s.readByte s.pc.toNat, s.readByte (s.pc.toNat + 1)] = encodeBytes i) :
    tick inputs s = exec i (s.sample inputs).tickTimers := by
  rw [tick_running inputs hr hf, fetched_of_encodeBytes hwf hb]

end Fetch

/-- Settles O39: after the store `PC` is where `I` is, so the two bytes fetched are the first two stored. -/
theorem storeSeenByNextFetch : Obligations.StoreSeenByNextFetch := by
  unfold Obligations.StoreSeenByNextFetch
  intro s x hm hi hx ha
  refine ⟨_, exec_ldMemVx s ha, ?_⟩
  have hpc : ((s.writeBytes s.dataAddr (s.regsUpTo x)).advance 2).pc.toNat = s.dataAddr :=
    congrArg BitVec.toNat hi.symm
  have h0 := writeBytes_regsUpTo_readByte hm s.dataAddr (x := x) (k := 0) (Nat.zero_le _)
  have h1 := writeBytes_regsUpTo_readByte hm s.dataAddr (x := x) (k := 1) hx
  rw [fetchWord_toNat, hpc]
  exact congrArg₂ (fun high low : Byte => 256 * high.toNat + low.toNat) h0 h1

/-- Settles O7: the fetch puts two bytes together, each read at its address modulo 4096. -/
theorem fetchIsBigEndianAndWraps : Obligations.FetchIsBigEndianAndWraps := by
  unfold Obligations.FetchIsBigEndianAndWraps
  exact fetchWord_toNat

/-- Settles O8: both kinds of next step are a tick, begun from a state that fetches the same bytes. -/
theorem stepRunsDecodedInstruction : Obligations.StepRunsDecodedInstruction := by
  unfold Obligations.StepRunsDecodedInstruction
  intro s i hh hw hf hwf hb
  refine ⟨fun inputs rest hs => ?_, fun hs => ?_⟩
  · rw [step_scheduled hs, runHostStep,
      tick_of_encodeBytes (s := (s.setSchedule rest).beginStep) inputs ⟨hh, hw⟩ hf hwf hb,
      sample_tickTimers]
    rfl
  · rw [step_unscheduled hs,
      tick_of_encodeBytes (s := s.countTick.beginStep) (freeTickIn s.tickNo) ⟨hh, hw⟩ hf hwf hb,
      sample_tickTimers]
    rfl

end Sys2Proof.Machine

/-! The encoder, the decoder and the opcode table agree on every word: O1 to O6. -/

namespace Sys2Proof

/-! ## A word put together from the fields of its format (table E1) -/

section Formats

variable {w : Word} {op n : Nibble} {kk : Byte}

theorem encA_of_fields (h : fieldTop w = op) : encA op (fieldNnn w) = w := h ▸ encA_fields w

theorem encI_of_fields (h : fieldTop w = op) (hkk : fieldKk w = kk) :
    encI op (fieldX w) kk = w := by
  rw [← h, ← hkk, encI_fields]

theorem encR_of_fields (h : fieldTop w = op) (hn : fieldN w = n) :
    encR op (fieldX w) (fieldY w) n = w := by
  rw [← h, ← hn, encR_fields]

end Formats

/-! ## Encoding a decoded word (R74 to R82) -/

/-- A well-formed instruction whose word is `w`. -/
def Instr.isReadingOf (p : LowNibblePolicy) (w : Word) (i : Instr) : Prop :=
  encode i = w ∧ i.wfWith p = true

section Readings

variable {w : Word} (p : LowNibblePolicy)

theorem invalid_isReadingOf (h : unrecognized p w = true) : (Instr.invalid w).isReadingOf p w :=
  ⟨rfl, h⟩

theorem decode0_isReadingOf (h : fieldTop w = 0) : (decode0 w).isReadingOf p w := by
  have hw : encA 0 (fieldNnn w) = w := encA_of_fields h
  unfold decode0
  split
  case isTrue hcls => exact ⟨hcls.symm, rfl⟩
  case isFalse hcls =>
    split
    case isTrue hret => exact ⟨hret.symm, rfl⟩
    case isFalse hret =>
      have hcls' : ¬ fieldNnn w = 0x0E0#12 := fun hn => hcls (by rw [← hw, hn]; rfl)
      have hret' : ¬ fieldNnn w = 0x0EE#12 := fun hn => hret (by rw [← hw, hn]; rfl)
      exact ⟨hw, by simp [Instr.wfWith, hcls', hret']⟩

/-- 5xy_ and 9xy_: a word is rejected only where well-formedness lists it for INVALID (R81). -/
theorem decode59_isReadingOf {op : RegIx → RegIx → Nibble → Instr} {top : Nibble}
    (henc : ∀ x y z, encode (op x y z) = encR top x y z)
    (hwf : ∀ x y z, (op x y z).wfWith p = (p == .ignored || z == 0#4))
    (htop : top = 5 ∨ top = 9) (h : fieldTop w = top) : (decode59 p op w).isReadingOf p w := by
  have hw : encode (op (fieldX w) (fieldY w) (fieldN w)) = w :=
    (henc _ _ _).trans (encR_of_fields h rfl)
  cases p with
  | ignored => exact ⟨hw, hwf _ _ _⟩
  | mustBeZero =>
    by_cases hn : fieldN w = 0
    · rw [decode59_mustBeZero, if_pos hn]
      exact ⟨hw, (hwf _ _ _).trans (by simp [hn])⟩
    · rw [decode59_mustBeZero, if_neg hn]
      exact invalid_isReadingOf _
        ((unrecognized_iff _ w).mpr (.inr (.inr (.inr ⟨rfl, h ▸ htop, hn⟩))))

theorem decode8_isReadingOf (h : fieldTop w = 8) : (decode8 w).isReadingOf p w := by
  unfold decode8
  split
  case h_10 =>
    have hn : fieldN w ∉ family8LowNibbles := by simp_all [family8LowNibbles]
    exact invalid_isReadingOf p ((unrecognized_iff p w).mpr (.inl ⟨h, hn⟩))
  all_goals next hn => exact ⟨encR_of_fields h hn, rfl⟩

theorem decodeE_isReadingOf (h : fieldTop w = 0xE) : (decodeE w).isReadingOf p w := by
  unfold decodeE
  split
  case h_3 =>
    have hkk : fieldKk w ∉ familyELowBytes := by simp_all [familyELowBytes]
    exact invalid_isReadingOf p ((unrecognized_iff p w).mpr (.inr (.inl ⟨h, hkk⟩)))
  all_goals next hkk => exact ⟨encI_of_fields h hkk, rfl⟩

theorem decodeF_isReadingOf (h : fieldTop w = 0xF) : (decodeF w).isReadingOf p w := by
  unfold decodeF
  split
  case h_10 =>
    have hkk : fieldKk w ∉ familyFLowBytes := by simp_all [familyFLowBytes]
    exact invalid_isReadingOf p ((unrecognized_iff p w).mpr (.inr (.inr (.inl ⟨h, hkk⟩))))
  all_goals next hkk => exact ⟨encI_of_fields h hkk, rfl⟩

theorem decodeWordWith_isReadingOf (w : Word) : (decodeWordWith p w).isReadingOf p w := by
  unfold decodeWordWith
  split
  case h_1 h => exact decode0_isReadingOf p h
  case h_2 h | h_3 h | h_11 h | h_12 h => exact ⟨encA_of_fields h, rfl⟩
  case h_4 h | h_5 h | h_7 h | h_8 h | h_13 h => exact ⟨encI_of_fields h rfl, rfl⟩
  case h_14 h => exact ⟨encR_of_fields h rfl, rfl⟩
  case h_6 h =>
    exact decode59_isReadingOf p (fun _ _ _ => rfl) (fun _ _ _ => rfl) (.inl rfl) h
  case h_10 h =>
    exact decode59_isReadingOf p (fun _ _ _ => rfl) (fun _ _ _ => rfl) (.inr rfl) h
  case h_9 h => exact decode8_isReadingOf p h
  case h_15 h => exact decodeE_isReadingOf p h
  case h_16 =>
    have h : fieldTop w = 0xF := by
      simp only [imp_false] at *
      bv_omega
    exact decodeF_isReadingOf p h

theorem encode_decodeWordWith (w : Word) : encode (decodeWordWith p w) = w :=
  (decodeWordWith_isReadingOf p w).1

theorem decodeWordWith_wfWith (w : Word) : (decodeWordWith p w).wfWith p = true :=
  (decodeWordWith_isReadingOf p w).2

end Readings

/-- Settles O1, by `decodeWordWith_encode`: the bytes of an instruction are those of its word. -/
theorem decodeOfEncode : Obligations.DecodeOfEncode := by
  unfold Obligations.DecodeOfEncode
  refine ⟨fun _ _ => decodeWordWith_encode, fun i rest hwf => ?_⟩
  have hi : decodeWord (encode i) = i := decodeWordWith_encode hwf
  rw [encodeBytes, decode_bytesOfWord, hi]

/-- Settles O2, by the branches of the dispatch: each answers a reading of the word. -/
theorem encodeOfDecode : Obligations.EncodeOfDecode := by
  unfold Obligations.EncodeOfDecode
  exact decodeWordWith_isReadingOf

/-! ## The words of INVALID and of SYS (R77, R82) -/

section InvalidAndSys

variable (w : Word)

theorem fieldN_toNat : (fieldN w).toNat = w.toNat % 16 := BitVec.extractLsb'_toNat ..

theorem fieldKk_toNat : (fieldKk w).toNat = w.toNat % 256 := BitVec.extractLsb'_toNat ..

theorem fieldN_not_mem_family8_iff :
    fieldN w ∉ family8LowNibbles ↔ w.toNat % 16 ∈ [8, 9, 10, 11, 12, 13, 15] := by
  simp only [family8LowNibbles, BitVec.ofNat_eq_ofNat, List.mem_cons, ← BitVec.toNat_inj,
    fieldN_toNat, BitVec.toNat_ofNat, Nat.reducePow, Nat.zero_mod, Nat.one_mod, Nat.reduceMod,
    List.not_mem_nil, or_false, not_or]
  omega

theorem fieldKk_not_mem_familyE_iff :
    fieldKk w ∉ familyELowBytes ↔ w.toNat % 256 ∉ [0x9E, 0xA1] := by
  simp [familyELowBytes, ← BitVec.toNat_inj, fieldKk_toNat]

theorem fieldKk_not_mem_familyF_iff : fieldKk w ∉ familyFLowBytes ↔
    w.toNat % 256 ∉ [0x07, 0x0A, 0x15, 0x18, 0x1E, 0x29, 0x33, 0x55, 0x65] := by
  simp [familyFLowBytes, ← BitVec.toNat_inj, fieldKk_toNat]

theorem unrecognized_ignored_iff : unrecognized .ignored w = true ↔
    (w.toNat / 4096 = 8 ∧ w.toNat % 16 ∈ [8, 9, 10, 11, 12, 13, 15]) ∨
    (w.toNat / 4096 = 14 ∧ w.toNat % 256 ∉ [0x9E, 0xA1]) ∨
    (w.toNat / 4096 = 15 ∧
      w.toNat % 256 ∉ [0x07, 0x0A, 0x15, 0x18, 0x1E, 0x29, 0x33, 0x55, 0x65]) := by
  rw [unrecognized_iff, fieldN_not_mem_family8_iff, fieldKk_not_mem_familyE_iff,
    fieldKk_not_mem_familyF_iff, fieldTop_eq_iff w 8, fieldTop_eq_iff w 0xE, fieldTop_eq_iff w 0xF]
  simp

variable {w}

theorem decodeWord_eq_invalid_iff : decodeWord w = .invalid w ↔ unrecognized .ignored w = true :=
  ⟨fun h => (congrArg (Instr.wfWith .ignored) h).symm.trans (decodeWordWith_wfWith _ w),
    decodeWordWith_unrecognized⟩

/-- INVALID carries the word it was decoded from. -/
theorem eq_of_decodeWord_eq_invalid {u : Word} (h : decodeWord w = .invalid u) : u = w :=
  (congrArg encode h).symm.trans (encode_decodeWordWith _ w)

theorem encA_zero_toNat (nnn : Addr12) : (encA 0 nnn).toNat = nnn.toNat := by
  rw [encA, BitVec.toNat_append]
  simp

theorem exists_decodeWord_eq_sys_iff : (∃ nnn, decodeWord w = .sys nnn) ↔
    w.toNat < 4096 ∧ w.toNat ≠ 0xE0 ∧ w.toNat ≠ 0xEE := by
  constructor
  · rintro ⟨nnn, h⟩
    obtain ⟨hw, hwf⟩ : (Instr.sys nnn).isReadingOf .ignored w := h ▸ decodeWordWith_isReadingOf _ w
    have hnat : w.toNat = nnn.toNat := (congrArg BitVec.toNat hw).symm.trans (encA_zero_toNat nnn)
    obtain ⟨hcls, hret⟩ : nnn ≠ 0x0E0 ∧ nnn ≠ 0x0EE := by simpa [Instr.wfWith] using hwf
    bv_omega
  · rintro ⟨hlt, hcls, hret⟩
    have htop : fieldTop w = 0 := (fieldTop_eq_iff w 0).mpr (Nat.div_eq_of_lt hlt)
    have hcls' : w ≠ 0x00E0#16 := fun h => hcls (congrArg BitVec.toNat h)
    have hret' : w ≠ 0x00EE#16 := fun h => hret (congrArg BitVec.toNat h)
    exact ⟨fieldNnn w, by
      rw [decodeWord, decodeWordWith_top0 _ htop, decode0, if_neg hcls', if_neg hret']⟩

end InvalidAndSys

/-- Settles O3: the instruction decoded is well-formed, and its word is the word. -/
theorem invalidAndSysWords : Obligations.InvalidAndSysWords := by
  unfold Obligations.InvalidAndSysWords
  exact fun w => ⟨decodeWord_eq_invalid_iff.trans (unrecognized_ignored_iff w),
    fun _ => eq_of_decodeWord_eq_invalid, exists_decodeWord_eq_sys_iff⟩

/-! ## Rows that one word selects (R88) -/

/-- Whether the two rows agree on the bits both compare. -/
def OpRow.overlaps (r q : OpRow) : Bool := r.pattern &&& q.mask == q.pattern &&& r.mask

/-- `r` takes some of the words that the more general row `q` selects too (R77, R82). -/
def OpRow.refines (r q : OpRow) : Prop :=
  q.mnemonic = "INVALID" ∨ (q.mnemonic = "SYS_nnn" ∧ r.mnemonic ∈ ["CLS", "RET"])

section Rows

variable {w : Word} {r q : OpRow}

theorem matches_iff : r.matches w = true ↔ w &&& r.mask = r.pattern := beq_iff_eq

theorem overlaps_symm (h : r.overlaps q = true) : q.overlaps r = true :=
  beq_iff_eq.mpr (beq_iff_eq.mp h).symm

theorem overlaps_of_matches (hr : r.matches w = true) (hq : q.matches w = true) :
    r.overlaps q = true := by
  rw [OpRow.overlaps, beq_iff_eq, ← matches_iff.mp hr, ← matches_iff.mp hq]
  ac_rfl

/-- Of two rows of the table that overlap, the upper refines the lower. -/
theorem opcodeTable_pairwise_refines :
    opcodeTable.Pairwise fun r q => r.overlaps q = true → r.refines q := by
  unfold OpRow.refines
  decide

theorem refines_or_refines (hr : r ∈ opcodeTable) (hq : q ∈ opcodeTable)
    (hrw : r.matches w = true) (hqw : q.matches w = true) (hne : r ≠ q) :
    r.refines q ∨ q.refines r := by
  have hpair : opcodeTable.Pairwise fun r q => r.overlaps q = true → r.refines q ∨ q.refines r :=
    opcodeTable_pairwise_refines.imp fun h ho => .inl (h ho)
  have hsymm : Std.Symm fun r q : OpRow => r.overlaps q = true → r.refines q ∨ q.refines r :=
    ⟨fun _ _ h ho => (h (overlaps_symm ho)).symm⟩
  exact hpair.forall hr hq hne (overlaps_of_matches hrw hqw)

/-- The first row a word selects refines every other one it selects. -/
theorem eq_or_refines_of_tableRow (hr : tableRow w = some r) (hq : q ∈ opcodeTable)
    (hqw : q.matches w = true) : q = r ∨ r.refines q := by
  obtain ⟨hrw, above, below, htable, habove⟩ := List.find?_eq_some_iff_append.mp hr
  have hpair := (List.pairwise_append.mp (htable ▸ opcodeTable_pairwise_refines)).2.1
  rw [htable, List.mem_append, List.mem_cons] at hq
  rcases hq with hq | hq | hq
  · exact absurd hqw (by simpa using habove q hq)
  · exact .inl hq
  · exact .inr (List.rel_of_pairwise_cons hpair hq (overlaps_of_matches hrw hqw))

/-! ## What a selected row says of the word's fields (R75 to R80) -/

/-- Where a row's mask is all ones, the word agrees with the row's pattern. -/
theorem extract_of_matches (start len : Nat) (hrw : r.matches w = true)
    (hmask : r.mask.extractLsb' start len = BitVec.allOnes len) :
    w.extractLsb' start len = r.pattern.extractLsb' start len := by
  rw [← matches_iff.mp hrw, BitVec.extractLsb'_and, hmask, BitVec.and_allOnes]

theorem fieldTop_of_matches (hrw : r.matches w = true) (hmask : fieldTop r.mask = 0xF) :
    fieldTop w = fieldTop r.pattern := extract_of_matches 12 4 hrw hmask

theorem fieldN_of_matches (hrw : r.matches w = true) (hmask : fieldN r.mask = 0xF) :
    fieldN w = fieldN r.pattern := extract_of_matches 0 4 hrw hmask

theorem fieldKk_of_matches (hrw : r.matches w = true) (hmask : fieldKk r.mask = 0xFF) :
    fieldKk w = fieldKk r.pattern := extract_of_matches 0 8 hrw hmask

/-- Every row but INVALID compares the top nibble, and those of the families 8xy_, Ex__ and Fx__ also
compare the low field that names the operation. -/
theorem opcodeTable_fields (hr : r ∈ opcodeTable) : r.mnemonic = "INVALID" ∨
    (fieldTop r.mask = 0xF ∧
    (fieldTop r.pattern = 8 → fieldN r.mask = 0xF ∧ fieldN r.pattern ∈ family8LowNibbles) ∧
    (fieldTop r.pattern = 0xE → fieldKk r.mask = 0xFF ∧ fieldKk r.pattern ∈ familyELowBytes) ∧
    (fieldTop r.pattern = 0xF → fieldKk r.mask = 0xFF ∧ fieldKk r.pattern ∈ familyFLowBytes)) := by
  revert r
  decide

/-- A word that decodes to INVALID selects no other row (R82). -/
theorem mnemonic_of_matches_unrecognized (hr : r ∈ opcodeTable) (hrw : r.matches w = true)
    (hu : unrecognized .ignored w = true) : r.mnemonic = "INVALID" := by
  refine (opcodeTable_fields hr).resolve_right fun ⟨htop, h8, hE, hF⟩ => ?_
  rw [← fieldTop_of_matches hrw htop] at h8 hE hF
  rcases (unrecognized_iff _ w).mp hu with ⟨h, hn⟩ | ⟨h, hkk⟩ | ⟨h, hkk⟩ | ⟨h, -⟩
  · obtain ⟨hmask, hmem⟩ := h8 h
    exact hn (fieldN_of_matches hrw hmask ▸ hmem)
  · obtain ⟨hmask, hmem⟩ := hE h
    exact hkk (fieldKk_of_matches hrw hmask ▸ hmem)
  · obtain ⟨hmask, hmem⟩ := hF h
    exact hkk (fieldKk_of_matches hrw hmask ▸ hmem)
  · cases h

theorem opcodeTable_cls_ret (hr : r ∈ opcodeTable) (hname : r.mnemonic ∈ ["CLS", "RET"]) :
    r.mask = BitVec.allOnes 16 ∧ (r.pattern = 0x00E0 ∨ r.pattern = 0x00EE) := by
  revert r
  decide

theorem eq_of_matches_cls_ret (hr : r ∈ opcodeTable) (hrw : r.matches w = true)
    (hname : r.mnemonic ∈ ["CLS", "RET"]) : w = 0x00E0 ∨ w = 0x00EE := by
  obtain ⟨hmask, hpattern⟩ := opcodeTable_cls_ret hr hname
  rw [matches_iff, hmask, BitVec.and_allOnes] at hrw
  rwa [hrw]

/-! ## The row of a decoded word -/

theorem eq_invalid_of_mnemonic {i : Instr} (h : i.mnemonic = "INVALID") : ∃ u, i = .invalid u := by
  cases i
  case invalid u => exact ⟨u, rfl⟩
  all_goals exact absurd h (by simp [Instr.mnemonic])

/-- Every instruction's word selects the instruction's own row. -/
theorem tableRow_statement (i : Instr) : Laws.TableRow.Statement i := by
  open Laws.TableRow in
  cases i <;> simp only [cls, ret, sys, jp, call, seImm, sneImm, seReg, ldImm, addImm, ldReg, orReg,
    andReg, xorReg, addReg, subReg, shr, subn, shl, sneReg, ldI, jpV0, rnd, drw, skp, sknp, ldVxDt,
    ldVxK, ldDtVx, ldStVx, addI, ldF, ldB, ldMemVx, ldVxMem, invalid]

theorem exists_row_of_decodeWord (w : Word) :
    ∃ q ∈ opcodeTable, q.mnemonic = (decodeWord w).mnemonic ∧ q.matches w = true := by
  have h := tableRow_statement (decodeWord w)
  rwa [Laws.TableRow.Statement, decodeWord, encode_decodeWordWith] at h

/-- The first row a word selects is named as the decoded instruction: the instruction's own row is
selected, and only INVALID's or SYS's could stand below the first. -/
theorem mnemonic_of_tableRow (hr : tableRow w = some r) : r.mnemonic = (decodeWord w).mnemonic := by
  have hrw : r.matches w = true := List.find?_some (p := fun r : OpRow => r.matches w) hr
  have hmem : r ∈ opcodeTable := List.mem_of_find?_eq_some hr
  obtain ⟨q, hq, hname, hqw⟩ := exists_row_of_decodeWord w
  rcases eq_or_refines_of_tableRow hr hq hqw with rfl | hinvalid | ⟨hsys, hrefined⟩
  · exact hname
  · obtain ⟨u, hu⟩ := eq_invalid_of_mnemonic (hname.symm.trans hinvalid)
    have hunrec := decodeWord_eq_invalid_iff.mp (eq_of_decodeWord_eq_invalid hu ▸ hu)
    rw [mnemonic_of_matches_unrecognized hmem hrw hunrec, hu, Instr.mnemonic]
  · rcases eq_of_matches_cls_ret hmem hrw hrefined with rfl | rfl <;>
      exact absurd (hname.symm.trans hsys) (by decide)

end Rows

/-- Settles O4: some row is selected, and the first one has the instruction's name. -/
theorem decoderAgreesWithOpcodeTable : Obligations.DecoderAgreesWithOpcodeTable := by
  unfold Obligations.DecoderAgreesWithOpcodeTable
  intro w
  obtain ⟨q, hq, -, hqw⟩ := exists_row_of_decodeWord w
  obtain ⟨r, hr⟩ : ∃ r, tableRow w = some r :=
    Option.isSome_iff_exists.mp (List.find?_isSome.mpr ⟨q, hq, hqw⟩)
  rw [hr, Option.map_some, mnemonic_of_tableRow hr]

/-- Settles O5: two different rows that one word selects overlap, so one refines the other. -/
theorem opcodeTableRowsDisjoint : Obligations.OpcodeTableRowsDisjoint := by
  unfold Obligations.OpcodeTableRowsDisjoint
  intro w r q hr hq hrw hqw
  by_cases heq : r = q
  · exact .inl heq
  rcases refines_or_refines hr hq hrw hqw heq with (h | h) | (h | h)
  · exact .inr (.inr (.inl h))
  · exact .inr (.inr (.inr (.inr h)))
  · exact .inr (.inl h)
  · exact .inr (.inr (.inr (.inl h)))

/-- Settles O6: the decoder runs on the nineteen words. -/
theorem tableWordsDecode : Obligations.TableWordsDecode := by
  unfold Obligations.TableWordsDecode
  decide

end Sys2Proof

/-! The steps of the tick cycle: what every step begins with, and what it does while a wait is pending, at a key,
at an acknowledgement, and where the machine makes no progress: O10, O11, O12, O13, O57. -/

namespace Sys2Proof.Machine

/-! ## The beginning of a step -/

/-- The state in which the body of a step runs: the pulses over, the step taken off the schedule, and `n` the
count of ticks that took free inputs (R109; log 1, log 3). -/
def State.begun (s : State) (n : Nat) : State :=
  { s with event := none, schedule := s.schedule.tail, tickNo := n }

/-- The state in which a tick meets the wait gate: begun, the inputs sampled and the timers advanced (R103). -/
def State.ticked (s : State) (inputs : TickIn) (n : Nat) : State :=
  ((s.begun n).sample inputs).tickTimers

/-- A wait is pending, no fault is latched and the fetch is allowed: a tick completes and executes nothing
(R105, R178). -/
structure State.Suspended (s : State) : Prop where
  halt : s.halt = none
  wait : s.wait ≠ none
  fetch : s.fetchAllowed = true

section Begin

variable {s : State}

theorem Part.same_refl (p : Part) (s : State) : p.same s s := by
  cases p with
  | mem | regs => exact fun _ => rfl
  | fb => exact fun _ _ => rfl
  | env => exact ⟨rfl, rfl, rfl⟩
  | _ => rfl

theorem begun_unchangedBut (s : State) (n : Nat) : UnchangedBut [.event, .env] s (s.begun n) :=
  ownFields_unchangedBut s none s.ports s.schedule.tail n

theorem ticked_unchangedBut (s : State) (inputs : TickIn) (n : Nat) :
    UnchangedBut [.dt, .st, .event, .env] s (s.ticked inputs n) :=
  (((ownFields_unchangedBut s none inputs s.schedule.tail n).trans (setDt_unchangedBut _ _)).trans
    (setSt_unchangedBut _ _)).mono (by decide)

theorem nextHostStep_scheduled {hs : HostStep} {rest : List HostStep} (h : s.schedule = hs :: rest) :
    (nextHostStep s).1 = hs := by
  simp [nextHostStep, h]

/-- A step is its body, run from the state it begins in. -/
theorem step_begun {hs : HostStep} (h : (nextHostStep s).1 = hs) :
    ∃ n, step s = runHostStep hs (s.begun n) := by
  obtain ⟨n, hn⟩ := nextHostStep_begun s
  have hbody : ∀ u, runHostStep hs u = runHostStep hs u.beginStep := fun u => by cases hs <;> rfl
  refine ⟨n, ?_⟩
  rw [step, h, hbody, hn]
  rfl

/-! ## Ticks (R103, R105, R200) -/

theorem step_tick_suspended {inputs : TickIn} (hs : s.Suspended)
    (h : (nextHostStep s).1 = .tick inputs) : ∃ n, step s = .next (s.ticked inputs n) := by
  obtain ⟨n, hn⟩ := step_begun h
  exact ⟨n, hn.trans (tick_waiting (s := s.begun n) inputs hs.halt hs.wait hs.fetch)⟩

theorem step_tick_running {inputs : TickIn} (hr : s.running) (hf : s.fetchAllowed = true)
    (h : (nextHostStep s).1 = .tick inputs) : ∃ n, step s = exec s.fetched (s.ticked inputs n) := by
  obtain ⟨n, hn⟩ := step_begun h
  exact ⟨n, hn.trans (tick_running (s := s.begun n) inputs hr hf)⟩

/-- A timer goes down by one when it is due, and 0 stays 0. -/
theorem countDown_toNat_sub (due : Bool) (b : Byte) :
    (countDown due b).toNat = b.toNat - if due then 1 else 0 := by
  rw [countDown_toNat]
  cases due <;> rfl

/-! ## Acknowledgements and the pending wait (R105, R108, R178) -/

theorem step_renderAck (hh : s.halt = none) (h : (nextHostStep s).1 = .renderAck) :
    ∃ n, step s = .next ((s.begun n).setDrew false) := by
  obtain ⟨n, hn⟩ := step_begun h
  exact ⟨n, hn.trans (renderAck_not_halted (s := s.begun n) hh)⟩

/-- What a tick or an acknowledgement may change while a wait is pending. -/
def suspendedParts : List Part := [.dt, .st, .drew, .event, .env]

/-- The suspension depends on no part that a tick or an acknowledgement changes during it. -/
theorem State.Suspended.of_unchangedBut {t : State} (hs : s.Suspended)
    (h : UnchangedBut suspendedParts s t) : t.Suspended where
  halt := (h .halt (by decide)).trans hs.halt
  wait := (h .wait (by decide)).trans_ne hs.wait
  fetch := by
    have hpc : t.pc = s.pc := h .pc (by decide)
    have hc : t.config = s.config := h .config (by decide)
    rw [State.fetchAllowed, hpc, hc]
    exact hs.fetch

/-- The steps that leave a pending wait as it is (R105, R108). -/
def HostStep.isTickOrAck (hs : HostStep) : Prop := hs = .renderAck ∨ ∃ inputs, hs = .tick inputs

/-- A suspended machine stays as it is but for `suspendedParts` in a tick and in an acknowledgement. -/
theorem step_suspended (hs : s.Suspended) (h : (nextHostStep s).1.isTickOrAck) :
    ∃ t, step s = .next t ∧ UnchangedBut suspendedParts s t ∧ t.schedule = s.schedule.tail := by
  obtain hack | ⟨inputs, htick⟩ := h
  · obtain ⟨n, hn⟩ := step_renderAck hs.halt hack
    exact ⟨_, hn, ((begun_unchangedBut s n).trans (setDrew_unchangedBut _ false)).mono (by decide), rfl⟩
  · obtain ⟨n, hn⟩ := step_tick_suspended hs htick
    exact ⟨_, hn, (ticked_unchangedBut s inputs n).mono (by decide), rfl⟩

/-- A schedule whose first `n + 1` listed steps are ticks and acknowledgements begins with one of them, an empty
one with a free tick (log 2), and goes on with `n` more. -/
theorem ticksAndAcks_succ {n : Nat}
    (h : ∀ hs ∈ s.schedule.take (n + 1), hs.isTickOrAck) :
    (nextHostStep s).1.isTickOrAck ∧ ∀ hs ∈ s.schedule.tail.take n, hs.isTickOrAck := by
  cases hl : s.schedule with
  | nil => exact ⟨.inr ⟨freeTickIn s.tickNo, by simp [nextHostStep, hl]⟩, by simp⟩
  | cons head rest =>
    rw [hl, List.take_succ_cons, List.forall_mem_cons] at h
    rw [nextHostStep_scheduled hl]
    exact h

/-- However many ticks and acknowledgements a suspended machine takes, each leaves it suspended. -/
theorem run_suspended {n : Nat} (hs : s.Suspended) (h : ∀ hs ∈ s.schedule.take n, hs.isTickOrAck) :
    ∃ t, Host.Core.run core n s = .next t ∧ UnchangedBut suspendedParts s t := by
  induction n generalizing s with
  | zero => exact ⟨s, rfl, fun p _ => p.same_refl s⟩
  | succ n ih =>
    obtain ⟨hfirst, hrest⟩ := ticksAndAcks_succ h
    obtain ⟨t, hstep, hframe, hsched⟩ := step_suspended hs hfirst
    obtain ⟨u, hrun, hframe'⟩ := ih (hs.of_unchangedBut hframe) (hsched ▸ hrest)
    exact ⟨u, (run_succ hstep).trans hrun, (hframe.trans hframe').mono (by decide)⟩

end Begin

/-! ## The situations without progress (R112) -/

section NoProgress

variable {s : State}

/-- A running machine is stuck on an instruction that reports its own word and does nothing else (R185, R186),
parked on a jump to its own address, which does nothing (R140), or neither. -/
theorem situationAt_cases (s : State) (i : Instr) :
    (s.situationAt i = .stuckOnWord ∧ exec i s = .next (s.emit (.invalidOpcode (encode i) s.pc))) ∨
    (s.situationAt i = .parked ∧ exec i s = .next s) ∨ s.situationAt i = .progressing := by
  cases i with
  | invalid w =>
    by_cases h : s.config.invalidPc = .stay
    · exact .inl ⟨if_pos h, by rw [exec_invalid, h, unrecognizedOpcode_stay, encode]⟩
    · exact .inr (.inr (if_neg h))
  | sys nnn =>
    by_cases h : s.config.sys = .asInvalid ∧ s.config.invalidPc = .stay
    · refine .inl ⟨if_pos h, ?_⟩
      rw [exec_sys, h.1, h.2, sysOpcode_asInvalid, unrecognizedOpcode_stay]
    · exact .inr (.inr (if_neg h))
  | jp nnn =>
    by_cases h : zextAddr nnn = s.pc
    · exact .inr (.inl ⟨if_pos h, by rw [exec_jp, h]; rfl⟩)
    · exact .inr (.inr (if_neg h))
  | _ => exact .inr (.inr rfl)

/-- No bit of the fetched word is lost in decoding it (R74). -/
theorem encode_fetched (s : State) : encode s.fetched = s.fetchWord := encode_decodeWordWith _ _

theorem situation_halted (hh : s.halt ≠ none) : s.situation = .faulted :=
  if_pos (Option.isSome_iff_ne_none.mpr hh)

theorem situation_waiting (hh : s.halt = none) (hw : s.wait ≠ none) : s.situation = .waiting := by
  simp [State.situation, hh, Option.isSome_iff_ne_none.mpr hw]

theorem situation_running (hr : s.running) : s.situation = s.situationAt s.fetched := by
  simp [State.situation, hr.1, hr.2]

end NoProgress

/-- Settles O10: the tick ends where it meets the wait gate. -/
theorem waitingTickMovesOnlyTimers : Obligations.WaitingTickMovesOnlyTimers := by
  unfold Obligations.WaitingTickMovesOnlyTimers
  intro s inputs rest hh hw hf hs
  obtain ⟨n, hn⟩ := step_tick_suspended ⟨hh, hw, hf⟩ (nextHostStep_scheduled hs)
  exact ⟨_, hn, ticked_unchangedBut s inputs n, rfl, countDown_toNat_sub _ _, countDown_toNat_sub _ _⟩

/-- Settles O11: the machine is suspended, and stays so through the listed steps and the free ticks after them. -/
theorem waitPersistsUntilKeyPress : Obligations.WaitPersistsUntilKeyPress := by
  unfold Obligations.WaitPersistsUntilKeyPress
  intro n s hh hw hf hlisted
  exact run_suspended ⟨hh, hw, hf⟩ hlisted

/-- Settles O12: with a wait pending the key's code and the end of the wait are the whole effect, without one
there is none. -/
theorem keyPressResolvesWait : Obligations.KeyPressResolvesWait := by
  unfold Obligations.KeyPressResolvesWait
  intro s k rest hh hs
  obtain ⟨n, hn⟩ := step_begun (nextHostStep_scheduled hs)
  have hbegun := begun_unchangedBut s n
  refine ⟨fun x hw => ?_, fun hw => ?_⟩
  · refine ⟨_, hn.trans (keyPress_waiting (s := s.begun n) k hh hw), by simp, rfl, fun j hj => ?_,
      ((hbegun.trans (setReg_unchangedBut _ _ _)).trans (setWait_unchangedBut _ none)).mono (by decide)⟩
    exact State.setReg_reg_ne (s.begun n) _ (by simpa using hj)
  · exact ⟨_, hn.trans (keyPress_not_waiting (s := s.begun n) k hw), hbegun⟩

/-- Settles O13: `DREW` cleared is the whole effect of the step's body. -/
theorem renderAckClearsDrew : Obligations.RenderAckClearsDrew := by
  unfold Obligations.RenderAckClearsDrew
  intro s rest hh hs
  obtain ⟨n, hn⟩ := step_renderAck hh (nextHostStep_scheduled hs)
  exact ⟨_, hn, rfl, ((begun_unchangedBut s n).trans (setDrew_unchangedBut _ false)).mono (by decide)⟩

/-- Settles O57: a faulted machine is left as it is, a waiting or parked one where the tick meets the wait
gate, and a stuck one there with the report of its word. -/
theorem noProgressSituations : Obligations.NoProgressSituations := by
  unfold Obligations.NoProgressSituations
  intro s inputs rest hs hfetch hsit
  have hnext := nextHostStep_scheduled hs
  by_cases hh : s.halt = none
  · have hf := hfetch hh
    by_cases hw : s.wait = none
    · obtain ⟨n, hn⟩ := step_tick_running ⟨hh, hw⟩ hf hnext
      have hframe := ticked_unchangedBut s inputs n
      rw [situation_running ⟨hh, hw⟩] at hsit ⊢
      have hsame : (s.ticked inputs n).situationAt s.fetched = s.situationAt s.fetched := rfl
      rcases hsame ▸ situationAt_cases (s.ticked inputs n) s.fetched with
        ⟨hstuck, hx⟩ | ⟨hparked, hx⟩ | hprogress
      · rw [hstuck, ← encode_fetched s]
        exact ⟨_, hn.trans hx, (hframe.trans (emit_unchangedBut _ _)).mono (by decide), nofun,
          fun _ => rfl, fun h => absurd rfl h⟩
      · rw [hparked]
        exact ⟨_, hn.trans hx, hframe, nofun, nofun, fun _ => rfl⟩
      · exact absurd hprogress hsit
    · obtain ⟨n, hn⟩ := step_tick_suspended ⟨hh, hw, hf⟩ hnext
      rw [situation_waiting hh hw]
      exact ⟨_, hn, ticked_unchangedBut s inputs n, nofun, nofun, fun _ => rfl⟩
  · obtain ⟨ports, n, hstep⟩ := step_halted hh (fun rom h => by cases hnext.symm.trans h)
    rw [situation_halted hh]
    exact ⟨_, hstep, (ownFields_unchangedBut s _ _ _ _).mono (by decide), fun _ => ⟨rfl, rfl⟩, nofun,
      fun _ => rfl⟩

end Sys2Proof.Machine

/-! The sampled inputs, read by SKP, SKNP and RND alone: O56. -/

namespace Sys2Proof.Machine

section Inputs

variable {s t : State} {i : Instr} (p : TickIn)

theorem writeArith_sample (o : VfOrderArith) (x : RegIx) (r : Byte) (f : Bool) :
    (s.sample p).writeArith o x r f = (s.writeArith o x r f).sample p := by
  cases o <;> rfl

theorem writeShift_sample (o : VfOrderShift) (x : RegIx) (out : Byte → Bool) (shift : Byte → Byte) :
    (s.sample p).writeShift o x out shift = (s.writeShift o x out shift).sample p := by
  cases o <;> rfl

theorem loadRegs_sample (a k : Nat) : (s.sample p).loadRegs a k = (s.loadRegs a k).sample p := by
  induction k with
  | zero => rfl
  | succ k ih =>
    rw [State.loadRegs, ih]
    rfl

theorem unrecognizedOpcode_sample (q : InvalidPcPolicy) (w : Word) :
    (s.sample p).unrecognizedOpcode q w = (s.unrecognizedOpcode q w).sample p := by
  cases q <;> rfl

theorem sysOpcode_sample (o : SysPolicy) (q : InvalidPcPolicy) (nnn : Addr12) :
    (s.sample p).sysOpcode o q nnn = (s.sysOpcode o q nnn).sample p := by
  cases o with
  | asInvalid => exact unrecognizedOpcode_sample p q _
  | ignore => rfl

theorem exec_ret_sample (h : exec .ret s = .next t) : exec .ret (s.sample p) = .next (t.sample p) := by
  rcases ret_cases h with ⟨hs, rfl⟩ | ⟨top, rest, hs, rfl⟩
  · exact exec_ret_empty (s.sample p) hs
  · exact exec_ret_cons (s.sample p) hs

theorem exec_call_sample {nnn : Addr12} (h : exec (.call nnn) s = .next t) :
    exec (.call nnn) (s.sample p) = .next (t.sample p) := by
  rcases call_cases h with ⟨hs, rfl⟩ | ⟨hs, rfl⟩
  · exact exec_call_full (s.sample p) nnn ((stackFull_iff s).mpr hs)
  · exact exec_call_room (s.sample p) nnn ((stackFull_eq_false_iff s).mpr hs)

theorem keyHeld_sample (h : p.keysHeld = s.ports.keysHeld) (k : KeyCode) :
    (s.sample p).keyHeld k = s.keyHeld k := congrArg (·.getLsbD k.toNat) h

/-- An operation does the same with other inputs, if those it reads are the same: `keys_held` for the two key
skips, `rand_byte` for RND. Its updates are of other parts, so the new inputs go through them. -/
theorem exec_sample (h : exec i s = .next t)
    (hkeys : p.keysHeld = s.ports.keysHeld ∨ ∀ x, i ≠ .skp x ∧ i ≠ .sknp x)
    (hrand : p.randByte = s.ports.randByte ∨ ∀ x kk, i ≠ .rnd x kk) :
    exec i (s.sample p) = .next (t.sample p) := by
  cases i with
  | skp x =>
    obtain ⟨k, hk, rfl⟩ := (exec_skp_eq_next s).mp h
    have hsame := hkeys.resolve_right fun hne => (hne x).1 rfl
    exact (exec_skp_eq_next _).mpr ⟨k, hk, keyHeld_sample p hsame k ▸ rfl⟩
  | sknp x =>
    obtain ⟨k, hk, rfl⟩ := (exec_sknp_eq_next s).mp h
    have hsame := hkeys.resolve_right fun hne => (hne x).2 rfl
    exact (exec_sknp_eq_next _).mpr ⟨k, hk, keyHeld_sample p hsame k ▸ rfl⟩
  | rnd x kk =>
    have hsame : (s.sample p).ports.randByte = s.ports.randByte :=
      hrand.resolve_right fun hne => hne x kk rfl
    cases h
    rw [exec_rnd, hsame]
    rfl
  | ret => exact exec_ret_sample p h
  | call nnn => exact exec_call_sample p h
  | sys nnn => cases h; exact congrArg _ (sysOpcode_sample p _ _ nnn)
  | invalid w => cases h; exact congrArg _ (unrecognizedOpcode_sample p _ w)
  | addReg | subReg | subn =>
    cases h
    exact congrArg (fun u => Host.Outcome.next (State.advance u 2)) (writeArith_sample p _ _ _ _)
  | shr | shl =>
    cases h
    exact congrArg (fun u => Host.Outcome.next (State.advance u 2)) (writeShift_sample p _ _ _ _)
  | ldF x =>
    obtain ⟨d, hd, ht⟩ := (exec_ldF_eq_next s).mp h
    exact (exec_ldF_eq_next _).mpr ⟨d, hd, congrArg (·.sample p) ht⟩
  | drw x y n =>
    obtain ⟨ha, ht⟩ := (exec_drw_eq_next s).mp h
    exact (exec_drw_eq_next _).mpr ⟨ha, congrArg (·.sample p) ht⟩
  | ldB x =>
    obtain ⟨ha, ht⟩ := (exec_ldB_eq_next s).mp h
    exact (exec_ldB_eq_next _).mpr ⟨ha, congrArg (·.sample p) ht⟩
  | ldMemVx x =>
    obtain ⟨ha, ht⟩ := (exec_ldMemVx_eq_next s).mp h
    exact (exec_ldMemVx_eq_next _).mpr ⟨ha, congrArg (·.sample p) ht⟩
  | ldVxMem x =>
    obtain ⟨ha, rfl⟩ := (exec_ldVxMem_eq_next s).mp h
    exact (exec_ldVxMem_eq_next _).mpr ⟨ha, (congrArg (·.advance 2) (loadRegs_sample p _ _)).symm⟩
  | cls | jp | seImm | sneImm | seReg | ldImm | addImm | ldReg | orReg | andReg | xorReg | sneReg | ldI
  | jpV0 | ldVxDt | ldVxK | ldDtVx | ldStVx | addI => cases h; rfl

end Inputs

/-- Settles O56: in each half the one input keeps its value and the other is not read. -/
theorem inputsReadOnlyAsListed : Obligations.InputsReadOnlyAsListed := by
  unfold Obligations.InputsReadOnlyAsListed
  intro i s t keys rand h
  exact ⟨fun hi => exec_sample _ h (.inr hi) (.inl rfl), fun hi => exec_sample _ h (.inl rfl) (.inr hi)⟩

end Sys2Proof.Machine

/-! Register load and arithmetic: what a form of write comes to, then each operation as a use of it: O17 to
O23. -/

namespace Sys2Proof.Machine

section LoadArithmetic

variable {s : State} {i : Instr} {x : RegIx} {r : Byte} {f : Bool}

/-! ## The results and the flags as numbers (R123 to R126) -/

theorem toNat_of_eq_add_two {p q : Word} (h : p = q + 2) : p.toNat = (q.toNat + 2) % 65536 :=
  h ▸ BitVec.toNat_add q 2

/-- The wrapped difference is the difference over the integers modulo 256. -/
theorem byte_sub_toNat_int (a b : Byte) : ((a - b).toNat : Int) = ((a.toNat : Int) - b.toNat) % 256 := by
  have hb := b.isLt
  rw [byte_sub_toNat]
  omega

theorem flagByte_addCarry (a b : Byte) :
    flagByte (addCarry a b) = if 255 < a.toNat + b.toNat then 1 else 0 := by
  simp [flagByte, addCarry]

theorem flagByte_noBorrow (a b : Byte) :
    flagByte (noBorrow a b) = if b.toNat ≤ a.toNat then 1 else 0 := by
  simp [flagByte, noBorrow]

/-! ## The two registers ADD, SUB and SUBN write (R127) -/

/-- The result reaches a register that is not the flag's, in either order of the two writes. -/
theorem writeArith_reg_result (o : VfOrderArith) (hx : x ≠ vf) :
    (s.writeArith o x r f).reg x = r := by
  rw [writeArith_reg, if_pos ⟨rfl, .inl hx⟩]

/-- `VF` holds the flag where it is not the destination, and where it is, if the flag is written last. -/
theorem writeArith_reg_flag {o : VfOrderArith} (h : x ≠ vf ∨ o = .flagLast) :
    (s.writeArith o x r f).reg vf = flagByte f := by
  have hlost : ¬ (vf = x ∧ (x ≠ vf ∨ o = .resultLast)) := by
    rintro ⟨rfl, hne | rfl⟩
    · exact hne rfl
    · simp at h
  rw [writeArith_reg, if_neg hlost, if_pos rfl]

/-! ## What the operations complete with -/

/-- An operation that writes one register. -/
theorem exec_setReg_completes (h : exec i s = .next ((s.setReg x r).advance 2)) :
    ∃ t, exec i s = .next t ∧ t.reg x = r ∧ t.pc = s.pc + 2 ∧ RegsUnchangedBut [x] s t ∧
      UnchangedBut [.regs, .pc] s t :=
  ⟨_, h, State.setReg_reg_same s x r, rfl, fun _ hj => State.setReg_reg_ne s r (by simpa using hj),
    (setReg_unchangedBut s x r).trans (advance_unchangedBut _ 2)⟩

/-- ADD, SUB and SUBN with a destination other than `VF`, in either order of the two writes. -/
theorem exec_writeArith_completes {o : VfOrderArith}
    (h : exec i s = .next ((s.writeArith o x r f).advance 2)) (hx : x ≠ vf) :
    ∃ t, exec i s = .next t ∧ t.reg x = r ∧ t.reg vf = flagByte f ∧ t.pc = s.pc + 2 ∧
      RegsUnchangedBut [x, vf] s t ∧ UnchangedBut [.regs, .pc] s t := by
  refine ⟨_, h, writeArith_reg_result o hx, writeArith_reg_flag (.inl hx),
    congrArg (· + 2) (writeArith_pc s o x r f), fun j hj => ?_,
    (writeArith_unchangedBut s o x r f).trans (advance_unchangedBut _ 2)⟩
  obtain ⟨hjx, hjv⟩ : j ≠ x ∧ j ≠ vf := by simpa using hj
  exact writeArith_reg_ne s o r f hjx hjv

/-- ADD, SUB and SUBN with the destination `VF` and the flag last: the result is lost (R127). -/
theorem exec_writeArith_vf_completes {o : VfOrderArith}
    (h : exec i s = .next ((s.writeArith o vf r f).advance 2)) (ho : o = .flagLast) :
    ∃ t, exec i s = .next t ∧ t.pc = s.pc + 2 ∧ t.reg vf = flagByte f ∧
      RegsUnchangedBut [vf] s t ∧ UnchangedBut [.regs, .pc] s t := by
  refine ⟨_, h, congrArg (· + 2) (writeArith_pc s o vf r f), writeArith_reg_flag (.inr ho),
    fun j hj => ?_, (writeArith_unchangedBut s o vf r f).trans (advance_unchangedBut _ 2)⟩
  have hjv : j ≠ vf := by simpa using hj
  exact writeArith_reg_ne s o r f hjv hjv

end LoadArithmetic

/-- Settles O17: one register is written, with the immediate. -/
theorem loadImmediate : Obligations.LoadImmediate := by
  unfold Obligations.LoadImmediate
  intro s x kk
  obtain ⟨t, ht, hx, hpc, hframe⟩ := exec_setReg_completes (exec_ldImm s x kk)
  exact ⟨t, ht, hx, toNat_of_eq_add_two hpc, hframe⟩

/-- Settles O18: one register is written, with the wrapped sum. -/
theorem addImmediate : Obligations.AddImmediate := by
  unfold Obligations.AddImmediate
  intro s x kk
  obtain ⟨t, ht, hx, hpc, hframe⟩ := exec_setReg_completes (exec_addImm s x kk)
  exact ⟨t, ht, hx ▸ BitVec.toNat_add _ _, toNat_of_eq_add_two hpc, hframe⟩

/-- Settles O19: one register is written, with the other's value. -/
theorem copyRegister : Obligations.CopyRegister := by
  unfold Obligations.CopyRegister
  intro s x y
  exact exec_setReg_completes (exec_ldReg s x y)

/-- Settles O20: the result is the wrapped sum, the flag its carry. -/
theorem addRegisters : Obligations.AddRegisters := by
  unfold Obligations.AddRegisters
  intro s x y hx
  obtain ⟨t, ht, hr, hf, hpc, hframe⟩ := exec_writeArith_completes (exec_addReg s x y) hx
  exact ⟨t, ht, hr ▸ BitVec.toNat_add _ _, hf.trans (flagByte_addCarry _ _), toNat_of_eq_add_two hpc, hframe⟩

/-- Settles O21: the result is the wrapped difference, the flag that there is no borrow. -/
theorem subtract : Obligations.Subtract := by
  unfold Obligations.Subtract
  intro s x y hx
  obtain ⟨t, ht, hr, hf, hpc, hframe⟩ := exec_writeArith_completes (exec_subReg s x y) hx
  exact ⟨t, ht, hr ▸ byte_sub_toNat_int _ _, hf.trans (flagByte_noBorrow _ _), toNat_of_eq_add_two hpc, hframe⟩

/-- Settles O22: as Subtract, with the operands the other way round. -/
theorem subtractReversed : Obligations.SubtractReversed := by
  unfold Obligations.SubtractReversed
  intro s x y hx
  obtain ⟨t, ht, hr, hf, hpc, hframe⟩ := exec_writeArith_completes (exec_subn s x y) hx
  exact ⟨t, ht, hr ▸ byte_sub_toNat_int _ _, hf.trans (flagByte_noBorrow _ _), toNat_of_eq_add_two hpc, hframe⟩

/-- Settles O23: in each of the three the flag of the old operands is what `VF` keeps. -/
theorem flagWrittenLastToVf : Obligations.FlagWrittenLastToVf := by
  unfold Obligations.FlagWrittenLastToVf
  intro s y ho
  rw [← flagByte_addCarry, ← flagByte_noBorrow, ← flagByte_noBorrow]
  exact ⟨exec_writeArith_vf_completes (exec_addReg s vf y) ho,
    exec_writeArith_vf_completes (exec_subReg s vf y) ho,
    exec_writeArith_vf_completes (exec_subn s vf y) ho⟩

end Sys2Proof.Machine

/-! Bitwise operations and shifts: what a form of write comes to, then each operation as a use of it: O24 to
O26. -/

namespace Sys2Proof.Machine

section Bitwise

variable {s : State} {i : Instr} {x : RegIx}

/-- An operation that writes one register, the result given by its bits. -/
theorem exec_setReg_completes_bits {r : Byte} {bit : Nat → Bool}
    (h : exec i s = .next ((s.setReg x r).advance 2)) (hbit : ∀ j, r.getLsbD j = bit j) :
    ∃ t, exec i s = .next t ∧ t.pc = s.pc + 2 ∧ (∀ j, (t.reg x).getLsbD j = bit j) ∧
      RegsUnchangedBut [x] s t ∧ UnchangedBut [.regs, .pc] s t := by
  obtain ⟨t, ht, hx, hpc, hframe⟩ := exec_setReg_completes h
  exact ⟨t, ht, hpc, fun j => hx ▸ hbit j, hframe⟩

/-- A shift of a register other than `VF`, in any order of its two writes. -/
theorem exec_writeShift_completes {o : VfOrderShift} {out : Byte → Bool} {shift : Byte → Byte}
    (h : exec i s = .next ((s.writeShift o x out shift).advance 2)) (hx : x ≠ vf) :
    ∃ t, exec i s = .next t ∧ t.pc = s.pc + 2 ∧ t.reg x = shift (s.reg x) ∧
      t.reg vf = flagByte (out (s.reg x)) ∧
      RegsUnchangedBut [x, vf] s t ∧ UnchangedBut [.regs, .pc] s t := by
  refine ⟨_, h, congrArg (· + 2) (writeShift_pc s o x out shift), ?_, ?_, fun j hj => ?_,
    (writeShift_unchangedBut s o x out shift).trans (advance_unchangedBut _ 2)⟩
  · exact (writeShift_reg s o hx out shift x).trans (if_pos rfl)
  · exact (writeShift_reg s o hx out shift vf).trans ((if_neg hx.symm).trans (if_pos rfl))
  · obtain ⟨hjx, hjv⟩ : j ≠ x ∧ j ≠ vf := by simpa using hj
    exact writeShift_reg_ne s o out shift hjx hjv

/-- The flag is written first, so what is shifted is the bit that was shifted out (R135). -/
theorem shifts_vf_sequential (y : RegIx) (h : s.config.vfOrderShift = .sequential) :
    CompletesWriting (.shr vf y) s vf 0 ∧
    CompletesWriting (.shl vf y) s vf (2 * ((s.reg vf).toNat / 128)) := by
  have hvf (out shift) : (s.writeShift s.config.vfOrderShift vf out shift).reg vf =
      shift (flagByte (out (s.reg vf))) := h ▸ (writeShift_reg_vf s out shift).1
  refine ⟨completesWriting_of_writeShift_vf (exec_shr s vf y) ?_,
    completesWriting_of_writeShift_vf (exec_shl s vf y) ?_⟩
  · rw [hvf, shiftRight_toNat, flagByte_toNat, outRight_toNat]
    omega
  · have hb := (s.reg vf).isLt
    rw [hvf, shiftLeft_toNat, flagByte_toNat, outLeft_toNat]
    omega

end Bitwise

/-- Settles O24: one register is written, with the bitwise operation on the two. -/
theorem logicOperations : Obligations.LogicOperations := by
  unfold Obligations.LogicOperations
  intro s x y
  exact ⟨exec_setReg_completes_bits (exec_orReg s x y) fun _ => BitVec.getLsbD_or,
    exec_setReg_completes_bits (exec_andReg s x y) fun _ => BitVec.getLsbD_and,
    exec_setReg_completes_bits (exec_xorReg s x y) fun _ => BitVec.getLsbD_xor⟩

/-- Settles O25: with `x` other than 15 neither write reaches the other's register. -/
theorem shifts : Obligations.Shifts := by
  unfold Obligations.Shifts
  intro s x y hx
  constructor
  · obtain ⟨t, ht, hpc, hr, hf, hframe⟩ := exec_writeShift_completes (exec_shr s x y) hx
    exact ⟨t, ht, hpc, hr ▸ shiftRight_toNat _, hf ▸ (flagByte_toNat _).trans (outRight_toNat _), hframe⟩
  · obtain ⟨t, ht, hpc, hr, hf, hframe⟩ := exec_writeShift_completes (exec_shl s x y) hx
    exact ⟨t, ht, hpc, hr ▸ shiftLeft_toNat _, hf ▸ (flagByte_toNat _).trans (outLeft_toNat _), hframe⟩

/-- Settles O26: the one bit of the flag just written is shifted, out on the right, up on the left. -/
theorem shiftsOfVf : Obligations.ShiftsOfVf := by
  unfold Obligations.ShiftsOfVf
  intro s y ho
  obtain ⟨⟨t, ht, hn, hpc, hframe⟩, ⟨t', ht', hn', hpc', hframe'⟩⟩ := shifts_vf_sequential y ho
  exact ⟨⟨t, ht, hpc, hn, hframe⟩, ⟨t', ht', hpc', hn', hframe'⟩⟩

end Sys2Proof.Machine

/-! Control flow: the distance of a skip as a number, the fault entry, CALL followed by RET, and the statements on
jumps, calls, returns and skips: O27 to O32. -/

namespace Sys2Proof.Machine

section ControlFlow

variable {s : State} {i : Instr}

/-! ## Jumps and skips (R140, R141, R149) -/

/-- An operation that sets `PC` and nothing else. -/
theorem exec_setPc_completes {a : Word} {n : Nat} (h : exec i s = .next (s.setPc a)) (hn : a.toNat = n) :
    ∃ t, exec i s = .next t ∧ t.pc.toNat = n ∧ UnchangedBut [.pc] s t :=
  ⟨_, h, hn, setPc_unchangedBut s a⟩

theorem skipDistance_toNat (taken : Bool) : (skipDistance taken).toNat = if taken then 4 else 2 := by
  cases taken <;> rfl

/-- A skip whose test `taken` decides the condition `c`. -/
theorem exec_skip_completes {taken : Bool} {c : Prop} [Decidable c]
    (h : exec i s = .next (s.advance (skipDistance taken))) (hc : taken = true ↔ c) :
    ∃ t, exec i s = .next t ∧ t.pc.toNat = (s.pc.toNat + if c then 4 else 2) % 65536 ∧
      UnchangedBut [.pc] s t := by
  refine ⟨_, h, ?_, advance_unchangedBut s _⟩
  rw [State.advance_pc, BitVec.toNat_add, skipDistance_toNat, if_congr hc rfl rfl]

/-! ## Calls and returns (R142, R143, R191 to R194) -/

/-- An operation that enters a fault: the latch holds the fault and the operation's own `PC`. -/
theorem exec_takeFault_completes {k : HaltKind} (h : exec i s = .next (s.takeFault k)) :
    ∃ t, exec i s = .next t ∧ t.halt = some ⟨k, s.pc⟩ ∧ t.faultKind = k.code ∧
      UnchangedBut [.halt] s t :=
  ⟨_, h, rfl, rfl, takeFault_unchangedBut s k⟩

/-- RET undoes the push and the jump of a CALL: of the state before it only `PC` differs, now the entry pushed. -/
theorem exec_ret_push (a target : Word) :
    exec .ret ((s.push a).setPc target) = .next (s.setPc a) :=
  exec_ret_cons _ rfl

end ControlFlow

/-- Settles O31: the state RET leaves is the one before the CALL with its `PC` at the entry that was pushed. -/
theorem callThenReturnComesBack : Obligations.CallThenReturnComesBack := by
  unfold Obligations.CallThenReturnComesBack
  intro s nnn hroom
  exact ⟨_, _, exec_call_room s nnn ((stackFull_eq_false_iff s).mpr hroom), exec_ret_push _ _, rfl,
    setPc_unchangedBut s _⟩

/-- Settles O27: both set `PC` alone, and the sum with `V[0]` does not wrap. -/
theorem jumps : Obligations.Jumps := by
  unfold Obligations.Jumps
  intro s nnn
  exact ⟨exec_setPc_completes (exec_jp s nnn) (zextAddr_toNat nnn),
    exec_setPc_completes (exec_jpV0 s nnn) (zextAddr_add_zextByte_toNat nnn _)⟩

/-- Settles O28: the new entry is at the old count, the others where they were. -/
theorem callPushesAndJumps : Obligations.CallPushesAndJumps := by
  unfold Obligations.CallPushesAndJumps
  intro s nnn hroom
  refine ⟨_, exec_call_room s nnn ((stackFull_eq_false_iff s).mpr hroom), rfl, ?_, fun k hk => ?_,
    zextAddr_toNat nnn, (setStack_unchangedBut s _).trans (setPc_unchangedBut _ _)⟩
  · exact (push_stackEntry s (s.pc + 2) s.sp).trans (if_pos rfl)
  · exact (push_stackEntry s (s.pc + 2) k).trans (if_neg hk.ne)

/-- Settles O29: with an entry on the stack RET pops it. -/
theorem returnPops : Obligations.ReturnPops := by
  unfold Obligations.ReturnPops
  intro s hpos
  obtain ⟨top, rest, hs⟩ := List.exists_cons_of_length_pos hpos
  have hsp : s.sp - 1 = rest.length := by simp [State.sp, hs]
  exact ⟨_, exec_ret_cons s hs, hsp.symm, hsp ▸ top_stackEntry s hs, fun k hk => pop_stackEntry s hs hk,
    (setStack_unchangedBut s _).trans (setPc_unchangedBut _ _)⟩

/-- Settles O30: each takes its fault before it writes anything. -/
theorem fatalFaultsLatchAndChangeNothing : Obligations.FatalFaultsLatchAndChangeNothing := by
  unfold Obligations.FatalFaultsLatchAndChangeNothing
  intro s
  constructor
  · intro nnn hfull
    exact exec_takeFault_completes (exec_call_full s nnn ((stackFull_iff s).mpr hfull))
  · intro hempty
    exact exec_takeFault_completes (exec_ret_empty s (List.length_eq_zero_iff.mp hempty))

/-- Settles O32: each is a skip under its own test. -/
theorem conditionalSkips : Obligations.ConditionalSkips := by
  unfold Obligations.ConditionalSkips
  intro s x y kk z
  exact ⟨exec_skip_completes (exec_seImm s x kk) beq_iff_eq,
    exec_skip_completes (exec_sneImm s x kk) bne_iff_ne,
    exec_skip_completes (exec_seReg s x y z) beq_iff_eq,
    exec_skip_completes (exec_sneReg s x y z) bne_iff_ne⟩

end Sys2Proof.Machine

/-! Memory and index register: the glyph's address as a number, what an operation that stores bytes
completes with, and the statements on the index register and the transfers: O34 to O38. -/

namespace Sys2Proof.Machine

section MemoryIndex

variable {s : State}

/-! ## The index register (R150, R151, R155) -/

/-- An operation that sets `I` and goes on to the next instruction. -/
theorem exec_setI_completes {i : Instr} {a : Word} {n : Nat}
    (h : exec i s = .next ((s.setI a).advance 2)) (hn : a.toNat = n) :
    ∃ t, exec i s = .next t ∧ t.i.toNat = n ∧ t.pc = s.pc + 2 ∧ UnchangedBut [.index, .pc] s t :=
  ⟨_, h, hn, rfl, (setI_unchangedBut s a).trans (advance_unchangedBut _ 2)⟩

theorem add_zextByte_toNat (a : Word) (b : Byte) :
    (a + zextByte b).toNat = (a.toNat + b.toNat) % 65536 := by
  rw [BitVec.toNat_add, zextByte_toNat]

/-- The glyph of the low four bits of a byte, for any `FONT_BASE`. -/
theorem glyphAddr_lowNibble_toNat (base : Nat) (b : Byte) :
    (glyphAddr base (b.extractLsb' 0 4)).toNat = (base + 5 * (b.toNat % 16)) % 65536 := by
  simp [glyphAddr]

/-! ## The transfers (R152, R153, R156) -/

/-- An operation that stores bytes and goes on to the next instruction: every cell reads as the store leaves
it, which for one that none of the written addresses names is as before. -/
theorem exec_writeBytes_completes {i : Instr} {a n : Nat} {vs : List Byte}
    (h : exec i s = .next ((s.writeBytes a vs).advance 2)) (hn : vs.length = n) :
    ∃ t, exec i s = .next t ∧ t.pc = s.pc + 2 ∧ UnchangedBut [.mem, .pc] s t ∧
      (∀ b, ¬ InCells a n b → t.readByte b = s.readByte b) ∧
      ∀ b, t.readByte b = (s.writeBytes a vs).readByte b :=
  ⟨_, h, rfl, (writeBytes_unchangedBut s a vs).trans (advance_unchangedBut _ 2),
    fun _ hb => Memory.readByte_writeBytes_ne s.mem a vs fun k hk e => hb ⟨k, hn ▸ hk, e⟩, fun _ => rfl⟩

/-- The three cells a decimal store wrote are read back as the digits, wherever they wrap (R52, R152). -/
theorem writeBytes_bcdDigits_readByte (hm : Memory.wf s.config s.mem) (a : Nat) (b : Byte) (k : Nat)
    (hk : k < 3) : ((s.writeBytes a (bcdDigits b)).readByte (a + k)).toNat =
      [b.toNat / 100, b.toNat / 10 % 10, b.toNat % 10][k] := by
  have hfits : (bcdDigits b).length ≤ memSize := by simp [bcdDigits, memSize]
  rw [State.writeBytes_readByte, Memory.readByte_writeBytes_at a hm hfits hk]
  exact (List.getElem_map BitVec.toNat (h := hk)).symm.trans (List.getElem_of_eq (bcdDigits_toNat b) hk)

end MemoryIndex

/-- Settles O34: `I` alone is set, and the 12-bit address is not changed by its extension. -/
theorem loadIndex : Obligations.LoadIndex := by
  unfold Obligations.LoadIndex
  intro s nnn
  obtain ⟨t, ht, hi, hpc, hframe⟩ := exec_setI_completes (exec_ldI s nnn) (zextAddr_toNat nnn)
  exact ⟨t, ht, hi, toNat_of_eq_add_two hpc, hframe⟩

/-- Settles O35: both set `I` alone; under either hypothesis the digit is the low four bits. -/
theorem indexUpdates : Obligations.IndexUpdates := by
  unfold Obligations.IndexUpdates
  intro s x
  exact ⟨exec_setI_completes (exec_addI s x) (add_zextByte_toNat _ _),
    fun hdigit => exec_setI_completes (exec_ldF s (fontDigit_eq_some hdigit)) (glyphAddr_lowNibble_toNat _ _)⟩

/-- Settles O36: three different cells are written, each with its digit. -/
theorem storeDecimalDigits : Obligations.StoreDecimalDigits := by
  unfold Obligations.StoreDecimalDigits
  intro s x ha
  obtain ⟨t, ht, hpc, hframe, hout, hcells⟩ := exec_writeBytes_completes (exec_ldB s ha) rfl
  refine ⟨t, ht, hpc, hframe, hout, fun hm => ?_⟩
  rw [hcells, hcells, hcells]
  have hdigit := writeBytes_bcdDigits_readByte hm s.dataAddr (s.reg x)
  exact ⟨hdigit 0 (by decide), hdigit 1 (by decide), hdigit 2 (by decide)⟩

/-- Settles O37: the `x + 1` cells written are different ones, so each keeps its register. -/
theorem bulkStore : Obligations.BulkStore := by
  unfold Obligations.BulkStore
  intro s x ha
  obtain ⟨t, ht, hpc, hframe, hout, hcells⟩ :=
    exec_writeBytes_completes (exec_ldMemVx s ha) (regsUpTo_length s x)
  exact ⟨t, ht, hpc, hframe, hout,
    fun hm _ hk => (hcells _).trans (writeBytes_regsUpTo_readByte hm s.dataAddr hk)⟩

/-- Settles O38: the loop over the first `x + 1` registers writes each of them once. -/
theorem bulkLoad : Obligations.BulkLoad := by
  unfold Obligations.BulkLoad
  intro s x ha
  refine ⟨_, exec_ldVxMem s ha, congrArg (· + 2) (loadRegs_pc s _ _),
    (loadRegs_unchangedBut s _ _).trans (advance_unchangedBut _ 2), fun k => ?_⟩
  rw [State.advance_reg, loadRegs_reg s _ _ x.isLt k, if_congr Nat.lt_succ_iff rfl rfl]

end Sys2Proof.Machine

/-! The display: what CLS and DRW leave of every cell and of `VF`: O40 to O42. -/

namespace Sys2Proof.Machine

section Display

variable {s t : State} {x y : RegIx} {n : Nibble}

theorem flagByte_eq_one_iff (b : Bool) : flagByte b = 1 ↔ b = true := by cases b <;> decide

theorem flagByte_eq_zero_iff (b : Bool) : flagByte b = 0 ↔ b = false := by cases b <;> decide

/-- No covered cell was on: DRW tells no collision (R163). -/
theorem drawSprite_hit_eq_false_iff : (s.drawSprite x y n).2 = false ↔
    ∀ row col, s.spriteBit x y n row col = true → s.fbOut row col = false := by
  rw [← Bool.not_eq_true, State.drawSprite_hit]
  push Not
  simp only [Bool.not_eq_true]

/-- DRW with its sprite's access allowed: every cell, both values of `VF`, and the frame (R161 to R165). -/
theorem exec_drw_completes (x y : RegIx) (h : s.dataAllowed n.toNat = true) :
    ∃ t, exec (.drw x y n) s = .next t ∧
    (∀ row col, t.fbOut row col = (s.fbOut row col ^^ s.spriteBit x y n row col)) ∧
    (t.reg 15 = 1 ↔ ∃ row col, s.spriteBit x y n row col = true ∧ s.fbOut row col = true) ∧
    (t.reg 15 = 0 ↔ ∀ row col, s.spriteBit x y n row col = true → s.fbOut row col = false) ∧
    t.drew = true ∧ t.pc = s.pc + 2 ∧ RegsUnchangedBut [15] s t ∧
    UnchangedBut [.fb, .regs, .drew, .pc] s t := by
  have ht := exec_drw s (x := x) (y := y) h
  have hvf := State.setReg_reg_same (s.setFb (s.drawSprite x y n).1) vf
    (flagByte (s.drawSprite x y n).2)
  have heffect := exec_listedEffect ht
  exact ⟨_, ht, State.drawSprite_cell s x y n,
    (Eq.congr_left hvf).trans ((flagByte_eq_one_iff _).trans (State.drawSprite_hit s x y n)),
    (Eq.congr_left hvf).trans ((flagByte_eq_zero_iff _).trans drawSprite_hit_eq_false_iff),
    rfl, rfl, heffect.regs, heffect.frame⟩

/-- The sprite is read from memory at `I`, and its origin from two registers (R161). -/
theorem spriteBit_congr (hx : t.reg x = s.reg x) (hy : t.reg y = s.reg y) (hi : t.i = s.i)
    (hmem : ∀ a, t.readByte a = s.readByte a) (row : Fin 32) (col : Fin 64) :
    t.spriteBit x y n row col = s.spriteBit x y n row col := by
  have hrow (r : Nat) : t.spriteRow r = s.spriteRow r := by
    rw [State.spriteRow, State.spriteRow, hmem, State.dataAddr, State.dataAddr, hi]
  rw [State.spriteBit, State.spriteBit, hx, hy, hrow]

theorem dataAllowed_congr (hi : t.i = s.i) (hconfig : t.config = s.config) (k : Nat) :
    t.dataAllowed k = s.dataAllowed k := by
  rw [State.dataAllowed, State.dataAllowed, State.dataAddr, State.dataAddr, hi, hconfig]

end Display

/-- Settles O40: every cell of the blank framebuffer is off, and the rest is CLS's row of table S1. -/
theorem clearScreen : Obligations.ClearScreen := by
  unfold Obligations.ClearScreen
  intro s
  exact ⟨_, exec_cls s, cell_blank, rfl, rfl, (exec_listedEffect (exec_cls s)).frame⟩

/-- Settles O41: the cells and the flag of the compositing loops, and DRW's row of table S1. -/
theorem drawFlipsTheSpriteCells : Obligations.DrawFlipsTheSpriteCells := by
  unfold Obligations.DrawFlipsTheSpriteCells
  intro s x y n h
  obtain ⟨t, ht, hcells, hone, hzero, hrest⟩ := exec_drw_completes x y h
  exact ⟨t, ht, hcells, hone.mpr, hzero.mpr, hrest⟩

/-- Settles O42: the first draw leaves what the second reads of its sprite, so each cell is flipped twice or
not at all, and a covered cell that was off is on when the second draw meets it. -/
theorem drawTwiceRestores : Obligations.DrawTwiceRestores := by
  unfold Obligations.DrawTwiceRestores
  intro s x y n hx hy h
  obtain ⟨t, ht, htcells, -, -, -, -, hregs, hframe⟩ := exec_drw_completes x y h
  have hi : t.i = s.i := hframe .index (by decide)
  have hsprite := spriteBit_congr (n := n) (hregs x (by simpa using hx)) (hregs y (by simpa using hy)) hi
    (hframe .mem (by decide))
  have hallowed : t.dataAllowed n.toNat = true :=
    (dataAllowed_congr hi (hframe .config (by decide)) _).trans h
  obtain ⟨u, hu, hucells, hone, -⟩ := exec_drw_completes x y hallowed
  refine ⟨t, u, ht, hu, fun row col => ?_, fun hoff => ?_⟩
  · rw [hucells, hsprite, htcells, Bool.xor_assoc, Bool.xor_self, Bool.xor_false]
  · have hon : ∀ row col, s.spriteBit x y n row col = true → t.fbOut row col = true := by
      intro row col hbit
      rw [htcells, hbit, hoff row col hbit, Bool.false_xor]
    simp only [hone, hsprite]
    exact exists₂_congr fun row col => and_iff_left_of_imp (hon row col)

end Sys2Proof.Machine

/-! Timers and keys: which key a skip asks for, and the statements on the timers, the skips on keys and the wait
for a key: O33, O43 to O46. -/

namespace Sys2Proof.Machine

section TimersKeys

variable {s : State} {i : Instr}

/-! ## Keys (R173, R174, R176) -/

theorem keyHeld_lowNibble (s : State) (b : Byte) :
    s.keyHeld (b.extractLsb' 0 4) = s.ports.keysHeld.getLsbD (b.toNat % 16) :=
  congrArg s.ports.keysHeld.getLsbD (BitVec.extractLsb'_toNat ..)

theorem skipDistance_eq_ite {taken : Bool} {c : Prop} [Decidable c] (hc : taken = true ↔ c) :
    skipDistance taken = if c then 4 else 2 :=
  if_congr hc rfl rfl

/-- A skip whose test `taken` decides the condition `c`, with `PC` given as a word. -/
theorem exec_skip_completes_word {taken : Bool} {c : Prop} [Decidable c]
    (h : exec i s = .next (s.advance (skipDistance taken))) (hc : taken = true ↔ c) :
    ∃ t, exec i s = .next t ∧ t.pc = s.pc + (if c then 4 else 2) ∧ UnchangedBut [.pc] s t :=
  ⟨_, h, congrArg (s.pc + ·) (skipDistance_eq_ite hc), advance_unchangedBut s _⟩

end TimersKeys

/-- Settles O33: under either hypothesis the key asked for is the one of the low four bits. -/
theorem skipsOnKeys : Obligations.SkipsOnKeys := by
  unfold Obligations.SkipsOnKeys
  intro s x hkey
  have hsome := keyIndex_eq_some hkey
  have hheld := keyHeld_lowNibble s (s.reg x)
  exact ⟨exec_skip_completes_word (exec_skp s hsome) (by rw [hheld]),
    exec_skip_completes_word (exec_sknp s hsome) (by rw [hheld, Bool.not_eq_true'])⟩

/-- Settles O43: the operation copies `DT`, and a tick runs it from the state with the timers advanced. -/
theorem readDelayTimer : Obligations.ReadDelayTimer := by
  unfold Obligations.ReadDelayTimer
  constructor
  · intro s x
    obtain ⟨t, ht, hx, hpc, hframe⟩ := exec_setReg_completes (exec_ldVxDt s x)
    exact ⟨t, ht, hx, toNat_of_eq_add_two hpc, hframe⟩
  · intro s x inputs rest hh hw hf hfetched hs
    obtain ⟨n, hn⟩ := step_tick_running ⟨hh, hw⟩ hf (nextHostStep_scheduled hs)
    rw [hfetched] at hn
    obtain ⟨t, ht, hx, -⟩ := exec_setReg_completes (exec_ldVxDt (s.ticked inputs n) x)
    have hdt : (s.ticked inputs n).dt = countDown inputs.timerDue s.dt := rfl
    exact ⟨t, hn.trans ht, by rw [hx, hdt, countDown_toNat]⟩

/-- Settles O44: `DT` alone is set. -/
theorem writeDelayTimer : Obligations.WriteDelayTimer := by
  unfold Obligations.WriteDelayTimer
  intro s x
  exact ⟨_, exec_ldDtVx s x, rfl, toNat_of_eq_add_two rfl,
    (setDt_unchangedBut s _).trans (advance_unchangedBut _ 2)⟩

/-- Settles O45: the request under any rounding, and `floor` as a number. -/
theorem writeSoundTimerRequestsTone : Obligations.WriteSoundTimerRequestsTone := by
  unfold Obligations.WriteSoundTimerRequestsTone
  intro s x hround
  obtain ⟨t, ht, hst, htone, hrest⟩ := exec_ldStVx_completes s x
  exact ⟨t, _, ht, hst, htone, hround ▸ toneMs_toNat _, hrest⟩

/-- Settles O46: the wait alone is set; no register is written. -/
theorem waitForKeyBegins : Obligations.WaitForKeyBegins := by
  unfold Obligations.WaitForKeyBegins
  intro s x
  exact ⟨_, exec_ldVxK s x, rfl, rfl, (setWait_unchangedBut s _).trans (advance_unchangedBut _ 2)⟩

end Sys2Proof.Machine

/-! The random byte, the reports of SYS and INVALID and the rule that nothing else faults, each from the
operation's own equation or effect: O47, O48, O50. -/

namespace Sys2Proof.Machine

section Reported

variable {s : State} {i : Instr}

/-- An operation whose whole effect is the report of the word `w` at `PC` (R186). -/
theorem exec_report_completes {w : Word} (h : exec i s = .next (s.emit (.invalidOpcode w s.pc))) :
    ∃ t, exec i s = .next t ∧ t.invalidOpcode = some (w, s.pc) ∧ UnchangedBut [.event] s t :=
  ⟨_, h, rfl, emit_unchangedBut s _⟩

theorem exec_invalid_stay (w : Word) (h : s.config.invalidPc = .stay) :
    exec (.invalid w) s = .next (s.emit (.invalidOpcode w s.pc)) := by
  rw [exec_invalid, h, unrecognizedOpcode_stay]

end Reported

/-- Settles O47: one register is written, with the sampled byte masked bit by bit. -/
theorem randomByteMasked : Obligations.RandomByteMasked := by
  unfold Obligations.RandomByteMasked
  intro s x kk
  obtain ⟨t, ht, hpc, hbit, hframe⟩ := exec_setReg_completes_bits (exec_rnd s x kk) fun _ => BitVec.getLsbD_and
  exact ⟨t, ht, hbit, toNat_of_eq_add_two hpc, hframe⟩

/-- Settles O48: INVALID reports its word, and SYS is the INVALID of its own word, which is its address. -/
theorem unrecognizedOpcodesReported : Obligations.UnrecognizedOpcodesReported := by
  unfold Obligations.UnrecognizedOpcodesReported
  intro s hstay
  refine ⟨fun w => exec_report_completes (exec_invalid_stay w hstay), fun hsys nnn => ?_⟩
  obtain ⟨t, ht, hreport, hframe⟩ := exec_report_completes
    ((exec_sys_asInvalid s nnn hsys).trans (exec_invalid_stay _ hstay))
  exact ⟨t, _, ht, hreport, encA_zero_toNat nnn, hframe⟩

/-- Settles O50: every instruction completes under the parameters that never stop, and of those that complete
under any only RET and CALL write the latch. -/
theorem nothingElseFaults : Obligations.NothingElseFaults := by
  unfold Obligations.NothingElseFaults
  refine ⟨fun i s h => exec_completes h i, fun i s t h hh => ?_⟩
  rcases exec_halt_changed h hh with ⟨hret, hempty, -⟩ | ⟨hcall, hfull, -⟩
  · exact .inl ⟨hret, List.length_eq_zero_iff.mpr hempty⟩
  · exact .inr ⟨hcall, hfull⟩

end Sys2Proof.Machine

/-! The timers over a whole tick: what a tick's instruction does not write is as the timer advance left it: O16. -/

namespace Sys2Proof.Machine

section TickTimers

variable {s t : State} {inputs : TickIn}

/-- R29, R171: the one row with `DT` is that of LD DT, Vx. -/
theorem ldDtVx_of_dt_mem {c : Config} {i : Instr} (h : .dt ∈ tableS1Parts c i) : ∃ x, i = .ldDtVx x := by
  cases i with
  | ldDtVx x => exact ⟨x, rfl⟩
  | sys | invalid => simpa using part_mem_reported rfl h
  | _ => simp [tableS1Parts] at h

/-- R30, R172: the one row with `ST` is that of LD ST, Vx. -/
theorem ldStVx_of_st_mem {c : Config} {i : Instr} (h : .st ∈ tableS1Parts c i) : ∃ x, i = .ldStVx x := by
  cases i with
  | ldStVx x => exact ⟨x, rfl⟩
  | sys | invalid => simpa using part_mem_reported rfl h
  | _ => simp [tableS1Parts] at h

/-- A tick that completes with no fault latched ends with the timer advance while a wait is pending, and goes on
to the fetched instruction otherwise (R103, R105). -/
theorem step_tick_cases (h : step s = .next t) (hh : s.halt = none)
    (hnext : (nextHostStep s).1 = .tick inputs) :
    ∃ n, (s.wait ≠ none ∧ t = s.ticked inputs n) ∨
      (s.wait = none ∧ exec s.fetched (s.ticked inputs n) = .next t) := by
  obtain ⟨hs, n, hfirst, he⟩ := step_cases h
  obtain rfl : hs = .tick inputs := hfirst.symm.trans hnext
  refine ⟨n, ?_⟩
  cases he with
  | tickHalted _ hhalt => exact absurd hh hhalt
  | tickWaiting _ _ hw => exact .inl ⟨hw, rfl⟩
  | tickRunning _ _ hr hx => exact .inr ⟨hr.2, hx⟩

/-- A part that no instruction of the tick writes is as the timer advance left it. -/
theorem step_tick_part_same {p : Part} (h : step s = .next t) (hh : s.halt = none)
    (hnext : (nextHostStep s).1 = .tick inputs)
    (hp : s.wait ≠ none ∨ p ∉ tableS1Parts s.config s.fetched) : ∃ n, p.same (s.ticked inputs n) t := by
  obtain ⟨n, ⟨-, rfl⟩ | ⟨hw, hx⟩⟩ := step_tick_cases h hh hnext
  · exact ⟨n, p.same_refl _⟩
  · exact ⟨n, (exec_listedEffect hx).frame p (hp.resolve_left fun hne => hne hw)⟩

end TickTimers

/-- Settles O16: a tick without LD DT, Vx leaves `DT` as its timer advance does, and one without LD ST, Vx
leaves `ST` so. -/
theorem tickAdvancesTimers : Obligations.TickAdvancesTimers := by
  unfold Obligations.TickAdvancesTimers
  intro s t inputs rest hh hs h
  have hnext := nextHostStep_scheduled hs
  refine ⟨fun hdt => ?_, fun hst => ?_⟩
  · obtain ⟨n, hsame⟩ := step_tick_part_same (p := .dt) h hh hnext
      (hdt.imp_right fun hne hmem => (ldDtVx_of_dt_mem hmem).elim hne)
    have hdt' : t.dt = countDown inputs.timerDue s.dt := hsame
    rw [hdt', countDown_toNat]
  · obtain ⟨n, hsame⟩ := step_tick_part_same (p := .st) h hh hnext
      (hst.imp_right fun hne hmem => (ldStVx_of_st_mem hmem).elim hne)
    have hst' : t.st = countDown (soundDue s.config.timerDueShared inputs) s.st := hsame
    rw [hst', countDown_toNat, soundDue]

end Sys2Proof.Machine

/-! Reset with an image: what every cell of memory reads as afterwards, and O14. -/

namespace Sys2Proof.Machine

section Reset

variable {s : State} {c : Config} {rom : List Byte}

/-! ## Valid parameters and the reset contents (R36, R51, R221) -/

theorem config_valid_iff : c.valid = true ↔
    c.fontData.length = 80 ∧ c.fontBase + 80 ≤ c.progBase ∧ c.progBase ≤ memSize := by
  simp [Config.valid, and_assoc]

theorem resetByte_font (c : Config) (j : Nat) : c.resetByte (c.fontBase + j) = c.fontData.getD j 0 := by
  rw [Config.resetByte, if_pos (Nat.le_add_right _ _), Nat.add_sub_cancel_left]

/-- A cell before the font or after its last byte holds zero. -/
theorem resetByte_outside_font {a : Nat} (h : a < c.fontBase ∨ c.fontBase + c.fontData.length ≤ a) :
    c.resetByte a = 0 := by
  rw [Config.resetByte]
  split
  · exact List.getD_eq_default _ _ (by omega)
  · rfl

/-! ## Memory after a Reset (R220) -/

theorem afterReset_readByte (rom : List Byte) (a : Nat) : (s.afterReset rom).readByte a =
    Memory.readByte s.config (Memory.writeBytes s.config [] s.config.progBase rom) a := rfl

/-- The image is read back where it was loaded. -/
theorem afterReset_readByte_image (hfits : rom.length ≤ memSize) {j : Nat} (hj : j < rom.length) :
    (s.afterReset rom).readByte (s.config.progBase + j) = rom[j] := by
  rw [afterReset_readByte]
  exact Memory.readByte_writeBytes_at _ (reset_memory_wf s.config) hfits hj

/-- Outside an image that ends inside memory, every cell holds its reset contents. -/
theorem afterReset_readByte_outside (hfits : s.config.progBase + rom.length ≤ memSize) {a : Nat}
    (ha : a < memSize) (hout : a < s.config.progBase ∨ s.config.progBase + rom.length ≤ a) :
    (s.afterReset rom).readByte a = s.config.resetByte a := by
  rw [afterReset_readByte, Memory.readByte_writeBytes_ne [] _ rom fun k hk => ?_]
  · exact resetWith_readByte s.config ha
  · have hk' : s.config.progBase + k < memSize := by omega
    rw [Memory.wrapAddr_of_lt ha, Memory.wrapAddr_of_lt hk']
    omega

/-! ## The step (R220, R221) -/

theorem step_reset (hs : (nextHostStep s).1 = .reset rom) (hfits : rom.length ≤ s.config.romCapacity) :
    ∃ n, step s = .next ((s.begun n).afterReset rom) := by
  obtain ⟨n, hn⟩ := step_begun hs
  exact ⟨n, hn.trans (resetStep_fits (s := s.begun n) rom hfits)⟩

end Reset

/-- Settles O14: memory is read cell by cell, the image, the font below it and the zeros around them; every
other part is that of the reset state. -/
theorem resetLoadsProgram : Obligations.ResetLoadsProgram := by
  unfold Obligations.ResetLoadsProgram
  intro s rom rest hvalid hs hend
  obtain ⟨hlen, hfont, hprog⟩ := config_valid_iff.mp hvalid
  have hend' : s.config.progBase + rom.length ≤ memSize := hend
  have hcap : rom.length ≤ s.config.romCapacity := Nat.le_sub_of_add_le' hend'
  obtain ⟨n, hn⟩ := step_reset (nextHostStep_scheduled hs) hcap
  refine ⟨_, hn, fun j hj => ?_, fun j hj => ?_, fun a ha hnofont hnoimage => ?_, resetWith_reg s.config, rfl,
    ?_, rfl, resetWith_fbOut s.config, rfl, rfl, rfl, rfl, rfl, congrArg List.tail hs, rfl⟩
  · exact afterReset_readByte_image (s := s.begun n) (by omega) hj
  · have hbelow : s.config.fontBase + j < s.config.progBase := by omega
    exact (afterReset_readByte_outside (s := s.begun n) hend' (by omega) (.inl hbelow)).trans
      (resetByte_font s.config j)
  · exact (afterReset_readByte_outside (s := s.begun n) hend' ha hnoimage).trans
      (resetByte_outside_font (hlen ▸ hnofont))
  · exact (BitVec.toNat_ofNat ..).trans (Nat.mod_eq_of_lt (Nat.lt_of_le_of_lt hprog (by decide)))

end Sys2Proof.Machine
